-- ==== Sys2Proof/Word.lean ====
section
/-!
DEFINITION. The words of the APX core: operands and results (64 bits, spec R4, R40, R41), command words
(136 bits, R40) and operation codes (8 bits, R40).
-/

namespace Sys2Proof

/-- A binary64 pattern: every operand, every result and every table entry (R4 `W = 64`, R7, R27).
Bit 63 is the most significant. -/
abbrev Word := BitVec 64

/-- A command word, the one format `CMD` (R40): `op` in bits 135:128, `a` in 127:64, `b` in 63:0. -/
abbrev CmdWord := BitVec 136

/-- An operation code, command bits 135:128 (R40). -/
abbrev OpCode := BitVec 8

end Sys2Proof
end

