-- ==== Sys2Proof/Machine/Binary64.lean ====
section
/-!
DEFINITION. The binary64 format and the Float Bit View (spec R55 to R60): fields, classification, the value
of a pattern, the decomposer, the exponent extractor and the recomposer.

A binary64 value and its 64-bit pattern are the same `Word` (R56: `bits` and `float` "change nothing").
-/

namespace Sys2Proof.Machine

/-- `MANT_BITS` (R4). -/
def mantBits : Nat := 52
/-- `EXP_BITS` (R4). -/
def expBits : Nat := 11
/-- `BIAS` (R4). -/
def bias : Nat := 1023

/-- Decomposer: the sign, `b[63]` (R58). -/
def sign (b : Word) : Bool := b.getLsbD 63
/-- Decomposer: the exponent field, `b[62:52]` (R58). -/
def expfield (b : Word) : BitVec 11 := b.extractLsb' 52 11
/-- Decomposer: the mantissa field, `b[51:0]` (R58). -/
def mant (b : Word) : BitVec 52 := b.extractLsb' 0 52

/-- `isNaN(b)` is `E = 2047 and M != 0` (R57). -/
def isNaN (b : Word) : Bool := expfield b == 2047#11 && mant b != 0#52
/-- `isInf(b)` is `E = 2047 and M = 0` (R57). -/
def isInf (b : Word) : Bool := expfield b == 2047#11 && mant b == 0#52
/-- `isFinite(b)` is `E != 2047` (R57). -/
def isFinite (b : Word) : Bool := expfield b != 2047#11
/-- `isZero(b)` is `E = 0 and M = 0` (R57). -/
def isZero (b : Word) : Bool := expfield b == 0#11 && mant b == 0#52
/-- `isSubnormal(b)` is `E = 0 and M != 0` (R57). -/
def isSubnormal (b : Word) : Bool := expfield b == 0#11 && mant b != 0#52
/-- A quiet NaN has `M[51] = 1`, a signalling one `M[51] = 0` (R55). -/
def isQuietNaN (b : Word) : Bool := isNaN b && b.getLsbD 51

/-- `2^1074`: how many units of the least subnormal make 1.0 (R55: a subnormal is `M * 2^(-1074)`). -/
def oneUnits : Nat := 2 ^ 1074

/-- The magnitude of a pattern's value, in units of `2^(-1074)` (R55): `M` when `E = 0`, else
`(2^52 + M) * 2^(E - 1)`. Every finite binary64 value is a whole number of these units. For an infinity the
same expression gives `2^2098`, the value `2^1024`, above every finite one. -/
def mag (b : Word) : Nat :=
  if expfield b = 0#11 then (mant b).toNat
  else (2 ^ 52 + (mant b).toNat) * 2 ^ ((expfield b).toNat - 1)

/-- The value of a pattern in units of `2^(-1074)`, with its sign (R55). -/
def units (b : Word) : Int := if sign b then -(mag b : Int) else (mag b : Int)

/-- The real number a finite pattern stands for (R55). -/
def value (b : Word) : ℚ := (units b : ℚ) / 2 ^ 1074

/-- A pattern from a sign and its 63 low bits, `mantissa + 2^52 * exponent field` (R55). -/
def signed (neg : Bool) (m : Nat) : Word := BitVec.ofBool neg ++ BitVec.ofNat 63 m

/-- `+0.0`, `0x0000000000000000` (R55). -/
def posZero : Word := 0x0000000000000000#64
/-- `-0.0`, `0x8000000000000000` (R55). -/
def negZero : Word := 0x8000000000000000#64
/-- `+inf`, `0x7FF0000000000000` (R55). -/
def posInf : Word := 0x7FF0000000000000#64
/-- `-inf`, `0xFFF0000000000000` (R55). -/
def negInf : Word := 0xFFF0000000000000#64

/-- Exponent extractor `unbiased(b) = expfield(b) - 1023`, a mathematical integer in -1023..1024 (R59, R77). -/
def unbiased (b : Word) : Int := (expfield b).toNat - 1023

/-- Recomposer (a): `pow2i(k)` is the pattern with sign 0, exponent field `k + 1023`, mantissa field 0
(R60 a, R111). The spec defines it for `-1022 <= k <= 1023` and no rule calls it with another `k`. -/
def pow2i (k : Int) : Word := (0#1 ++ BitVec.ofInt 11 (k + 1023)) ++ 0#52

/-- Recomposer (b): `normmant(b)` is the pattern with sign 0, exponent field 1023 and the mantissa field of
`b` (R60 b, R121). -/
def normmant (b : Word) : Word := (0#1 ++ 1023#11) ++ mant b

end Sys2Proof.Machine
end

