-- ==== Sys2Proof/Machine/Flags.lean ====
section
/-!
DEFINITION. Comparisons (spec R67). The unit has no flags, condition codes or IEEE exception flags (R13): no
operation sets or reads one, so this file holds the comparisons the rules branch on and nothing else.
-/

namespace Sys2Proof.Machine

/-- Neither operand is a NaN: "if either operand is NaN every one of the four is false" (R67). -/
def ordered (x y : Word) : Bool := !isNaN x && !isNaN y

/-- `x < y` as extended reals (R67); `units` puts the infinities beyond every finite value and gives the two
zeros one value. -/
def flt (x y : Word) : Bool := ordered x y && decide (units x < units y)
/-- `x <= y` (R67). -/
def fle (x y : Word) : Bool := ordered x y && decide (units x ≤ units y)
/-- `x > y` (R67). -/
def fgt (x y : Word) : Bool := ordered x y && decide (units y < units x)
/-- `x == y` (R67). -/
def feq (x y : Word) : Bool := ordered x y && decide (units x = units y)

end Sys2Proof.Machine
end

