-- ==== Sys2Proof/Machine/Arith.lean ====
section
/-!
DEFINITION. The arithmetic primitives (spec R61 to R71): one rounding, four operations, negation, truncation
and the two exact conversions.

An operation that can produce an arithmetic NaN takes its pattern as the argument `nan`: "its sign, quiet bit
and payload are not fixed by this spec (a draw among the patterns with isNaN)" (R71 b). The meanings draw a
fresh one for each command (log entry 5).
-/

namespace Sys2Proof.Machine

/-- The integer nearest to `p / q`, the even one of the two at a tie (R61); `q` is positive. -/
def nearestEven (p q : Nat) : Nat :=
  let n := p / q
  let r := 2 * (p % q)
  if r < q then n
  else if q < r then n + 1
  else if n % 2 = 0 then n else n + 1

/-- How far above the least subnormal the unit in the last place of `p / q` lies: with `p / q` in units of
`2^(-1074)`, R61's `u = 2^(e - 52)` for `e = max(floor(log2 r), -1022)` is `2^(ulpShift p q)` of those
units (`floor(log2 (p / q))` is `Nat.log2` of the whole part, and the subtraction stops at 0). -/
def ulpShift (p q : Nat) : Nat := Nat.log2 (p / q) - 52

/-- The 63 low bits of `round` of the positive number `p / q` units (R61). With `n * u` the rounded magnitude
and `u = 2^s` units, `s * 2^52 + n` is the pattern of `n * u` whether it is subnormal, normal, or carried to
the next exponent; from `2^1024` on it is the infinity's. -/
def roundMag (p q : Nat) : Nat :=
  min (ulpShift p q * 2 ^ 52 + nearestEven p (q * 2 ^ ulpShift p q)) (2047 * 2 ^ 52)

/-- `round(r)` for the number of magnitude `p / q` in units of `2^(-1074)` with sign `neg`: to nearest, ties
to even, gradual underflow, overflow to the infinity of that sign, the zero of that sign when it rounds to
zero (R61). -/
def fround (neg : Bool) (p q : Nat) : Word := signed neg (roundMag p q)

/-- `fadd(x, y)` (R62). -/
def fadd (nan x y : Word) : Word :=
  if isNaN x || isNaN y then nan
  else if isInf x && isInf y then (if sign x == sign y then x else nan)
  else if isInf x then x
  else if isInf y then y
  else if isZero x && isZero y then (if sign x == sign y then x else posZero)
  else
    let r := units x + units y
    if r = 0 then posZero else fround (decide (r < 0)) r.natAbs 1

/-- `fneg(x)`: bit 63 inverted, for every pattern, no rounding (R66). -/
def fneg (x : Word) : Word := x ^^^ 0x8000000000000000#64

/-- `fsub(x, y) = fadd(x, fneg(y))` (R63). -/
def fsub (nan x y : Word) : Word := fadd nan x (fneg y)

/-- `fmul(x, y)` (R64). The product of two numbers of units is a number of `2^(-2148)`. -/
def fmul (nan x y : Word) : Word :=
  if isNaN x || isNaN y then nan
  else if (isZero x && isInf y) || (isInf x && isZero y) then nan
  else
    let s := sign x ^^ sign y
    if isInf x || isInf y then (if s then negInf else posInf)
    else if isZero x || isZero y then (if s then negZero else posZero)
    else fround s (mag x * mag y) oneUnits

/-- `fdiv(x, y)` (R65). -/
def fdiv (nan x y : Word) : Word :=
  if isNaN x || isNaN y then nan
  else if (isZero x && isZero y) || (isInf x && isInf y) then nan
  else
    let s := sign x ^^ sign y
    if isInf x || isZero y then (if s then negInf else posInf)
    else if isZero x || isInf y then (if s then negZero else posZero)
    else fround s (mag x * oneUnits) (mag y)

/-- `ftrunc(x)`: toward zero, in the binary64 format, the zero keeping the sign of `x` (R68). -/
def ftrunc (nan x : Word) : Word :=
  if isNaN x then nan
  else if isInf x || isZero x then x
  else fround (sign x) (mag x / oneUnits * oneUnits) 1

/-- `i2f(n)`: the binary64 value equal to `n`, exact for `|n| <= 2^53`, `i2f(0) = +0.0` (R69). -/
def i2f (n : Int) : Word := fround (decide (n < 0)) (n.natAbs * oneUnits) 1

/-- `f2i(x)`: the integer equal to a finite integral `x` (R70). -/
def f2i (x : Word) : Int := (units x).tdiv oneUnits

/-- An arithmetic NaN pattern from raw free bits (R71 b): the bits themselves when they are a NaN pattern,
so that every NaN pattern can be the outcome, and some NaN pattern whatever they are. -/
def asNaN (raw : Word) : Word := if isNaN raw then raw else 0x7FF8000000000000#64

end Sys2Proof.Machine
end

