-- ==== Sys2Proof/Config.lean ====
section
/-!
DEFINITION. The configuration record `Cfg` of spec R4, the parameters the source leaves open, and the free
values of the model (spec R8 `UNSPEC64`, R71, R24).

`Cfg` is "a parameter of the step relation, not state" (R5): the model's `State` carries it as a field that
no step writes, so that every statement about all states is a statement about all configurations (log entry 1).
-/

namespace Sys2Proof

/-- The configuration record of R4: the constant tables (R26), the sentinel NaN pattern (R71 a) and the
latencies (R155, which no rule reads). The seven scalar constants of R76 are fixed by the spec and are
named definitions in `Sys2Proof/Machine/Tables.lean`. -/
structure Cfg where
  /-- `SIN_C[0..5]`; entry k multiplies `(x*x)^k` (R4, R85). -/
  sinC : Vector Word 6
  /-- `ATAN_C[0..5]`; entry k multiplies `(x*x)^k` (R4, R95). -/
  atanC : Vector Word 6
  /-- `EXP2_P[0..2]`; entry k multiplies `(x*x)^k` (R4, R110). -/
  exp2P : Vector Word 3
  /-- `EXP2_Q[0..2]`; entry k multiplies `(x*x)^k` (R4, R110). -/
  exp2Q : Vector Word 3
  /-- `LOG2_P[0..3]`; entry k multiplies `x^k` (R4, R120). -/
  log2P : Vector Word 4
  /-- `LOG2_Q[0..3]`; entry k multiplies `x^k` (R4, R120). -/
  log2Q : Vector Word 4
  /-- `ATAN_X[0..8]`, the partition upper bounds (R97). -/
  atanX : Vector Word 9
  /-- `ATAN_RCP[0..8]`, the reciprocals `1/x_i` (R97); entry 0 is never read (R103). -/
  atanRcp : Vector Word 9
  /-- `ATAN_RCP2P1[0..8]`, `(1/x_i)^2 + 1` (R97); entry 0 is never read (R103). -/
  atanRcp2p1 : Vector Word 9
  /-- `NAN_PATTERN`, the sentinel NaN (R71 a). -/
  nanPattern : Word
  /-- `LATENCY[op]` for the sixteen codes, in clock cycles; no rule depends on it (R155). -/
  latency : Vector Nat 16
  deriving DecidableEq, Repr

/-- A finite binary64 value by construction: a sign, an exponent field that is not 2047, a mantissa field
(R55). R5 asks that every entry of a coefficient table be one. -/
structure Coeff where
  sign : Bool
  exp : Fin 2047
  mant : BitVec 52
  deriving DecidableEq, Repr, Inhabited

/-- The 64-bit pattern of a finite value (R55: sign 63, exponent field 62:52, mantissa field 51:0). -/
def Coeff.word (c : Coeff) : Word :=
  (BitVec.ofBool c.sign ++ BitVec.ofNat 11 c.exp.val) ++ c.mant

/-- OPEN parameter `SIN_C` of the machine that `State.reset` describes (R4, 91 N1): no value is known. -/
opaque Config.sinC : Vector Coeff 6
/-- OPEN parameter `ATAN_C` (R4, 91 N1). -/
opaque Config.atanC : Vector Coeff 6
/-- OPEN parameter `EXP2_P` (R4, 91 N1). -/
opaque Config.exp2P : Vector Coeff 3
/-- OPEN parameter `EXP2_Q` (R4, 91 N1). -/
opaque Config.exp2Q : Vector Coeff 3
/-- OPEN parameter `LOG2_P` (R4, 91 N1). -/
opaque Config.log2P : Vector Coeff 4
/-- OPEN parameter `LOG2_Q` (R4, 91 N1). -/
opaque Config.log2Q : Vector Coeff 4
/-- OPEN parameter `LATENCY` (R4, R155). -/
opaque Config.latency : Vector Nat 16

/-- FREE VALUE `UNSPEC64` (R8, R78, 93 U1 and U2): "a 64-bit value this spec does not fix: the model draws it
freely at each use". `stream` names the unit's stream of draws, `n` the draw (log entry 4). -/
opaque Config.unspec64 (stream n : Nat) : Word

/-- FREE VALUE: the raw bits from which the pattern of an arithmetic NaN is made (R71 b, 93 U4; log entry 5). -/
opaque Config.arithNaN (stream n : Nat) : Word

/-- FREE VALUE: what the `rsp` wires carry while `rsp_valid` is 0 (R24, 93 U5; log entry 11). -/
opaque Config.rspIdle (stream n : Nat) : Word

end Sys2Proof
end

