-- ==== Sys2Proof/Machine/Tables.lean ====
section
/-!
DEFINITION. The scalar constants (spec R76), the literals of the pseudocode (R8), the default partition
table (R97), the default NaN pattern (R71), and the configuration of the machine at reset.
-/

namespace Sys2Proof.Machine

/-- `TWO_PI` (R76). -/
def twoPi : Word := 0x401921FB54442D18#64
/-- `PI` (R76). -/
def pi : Word := 0x400921FB54442D18#64
/-- `HALF_PI` (R76). -/
def halfPi : Word := 0x3FF921FB54442D18#64
/-- `PI_32` (R76). -/
def pi32 : Word := 0x3FB921FB54442D18#64
/-- `SQRT2` (R76). -/
def sqrt2 : Word := 0x3FF6A09E667F3BCD#64
/-- `LOG2E` (R76). -/
def log2e : Word := 0x3FF71547652B82FE#64
/-- `LN2` (R76). -/
def ln2 : Word := 0x3FE62E42FEFA39EF#64

/-- The literal `0.25` (R8: the binary64 value equal to it). -/
def f0_25 : Word := 0x3FD0000000000000#64
/-- The literal `0.5`. -/
def f0_5 : Word := 0x3FE0000000000000#64
/-- The literal `-0.5`. -/
def fm0_5 : Word := 0xBFE0000000000000#64
/-- The literal `0.75`. -/
def f0_75 : Word := 0x3FE8000000000000#64
/-- The literal `1.0`. -/
def f1 : Word := 0x3FF0000000000000#64
/-- The literal `2.0`. -/
def f2 : Word := 0x4000000000000000#64
/-- The literal `3.0`. -/
def f3 : Word := 0x4008000000000000#64
/-- The literal `4.0`. -/
def f4 : Word := 0x4010000000000000#64
/-- The literal `-1022.0`. -/
def fm1022 : Word := 0xC08FF00000000000#64
/-- The literal `1023.0`. -/
def f1023 : Word := 0x408FF80000000000#64

/-- The default `ATAN_X`: the upper bounds `tan((2i+1)π/32)` and the sentinel `+inf` (R97). -/
def defaultAtanX : Vector Word 9 :=
  #v[0x3FB936BB8C5B2DA2#64, 0x3FD36A08355C63DC#64, 0x3FE11AB7190834EC#64,
     0x3FEA43002AE42850#64, 0x3FF37EFD8D87607E#64, 0x3FFDEF13B73C1406#64,
     0x400A5F59E90600DD#64, 0x40244E6C595AFDCC#64, 0x7FF0000000000000#64]

/-- The default `ATAN_RCP`: `cot(iπ/16)` (R97); entry 0 is never read (R103). -/
def defaultAtanRcp : Vector Word 9 :=
  #v[0x7FF0000000000000#64, 0x40141BFEE2424771#64, 0x4003504F333F9DE6#64,
     0x3FF7F218E25A7461#64, 0x3FF0000000000000#64, 0x3FE561B82AB7F990#64,
     0x3FDA827999FCEF32#64, 0x3FC975F5E0553158#64, 0x0000000000000000#64]

/-- The default `ATAN_RCP2P1`: `cot²(iπ/16) + 1` (R97); entry 0 is never read (R103). -/
def defaultAtanRcp2p1 : Vector Word 9 :=
  #v[0x7FF0000000000000#64, 0x403A462E31BDAE84#64, 0x401B504F333F9DE6#64,
     0x4009EB2B5DD4F935#64, 0x4000000000000000#64, 0x3FF724B6105C2F32#64,
     0x3FF2BEC333018867#64, 0x3FF0A210181EF62A#64, 0x3FF0000000000000#64]

/-- The default `NAN_PATTERN` (R4, R71). -/
def defaultNanPattern : Word := 0x7FF8000000000000#64

/-- The configuration of the machine that `State.reset` describes: the OPEN tables are opaque finite values
(log entry 2), the partition table and the NaN pattern are the spec's defaults (log entry 3). -/
def powerOnCfg : Cfg where
  sinC := Config.sinC.map Coeff.word
  atanC := Config.atanC.map Coeff.word
  exp2P := Config.exp2P.map Coeff.word
  exp2Q := Config.exp2Q.map Coeff.word
  log2P := Config.log2P.map Coeff.word
  log2Q := Config.log2Q.map Coeff.word
  atanX := defaultAtanX
  atanRcp := defaultAtanRcp
  atanRcp2p1 := defaultAtanRcp2p1
  nanPattern := defaultNanPattern
  latency := Config.latency

end Sys2Proof.Machine
end

