-- ==== Sys2Proof/Machine/Operands.lean ====
section
/-!
DEFINITION. The command domains (spec R78). The operand forms are one: the 64-bit fields `a` and `b`, taken
whole (R45, R43). A command whose operand lies outside its domain answers `UNSPEC64` (R78); the comparisons
are those of R67, "so `-0.0` is inside every domain that contains 0 and a NaN is inside none".
-/

namespace Sys2Proof.Machine

open Sys2Proof

/-- FLOOR: finite, or `+inf`, or `-inf` (R78). -/
def domFloor (a : Word) : Bool := isFinite a || isInf a
/-- SIN_S1: `0 <= a <= 1` (R78). -/
def domSinS1 (a : Word) : Bool := fle posZero a && fle a f1
/-- SIN_S2: `0 <= a <= 0.25` (R78). -/
def domSinS2 (a : Word) : Bool := fle posZero a && fle a f0_25
/-- SIN_S3: `0 <= a <= 1` (R78). -/
def domSinS3 (a : Word) : Bool := fle posZero a && fle a f1
/-- SIN: finite (R78). -/
def domSin (a : Word) : Bool := isFinite a
/-- COS: finite (R78). -/
def domCos (a : Word) : Bool := isFinite a
/-- ATAN_S1: `0 <= a <= ATAN_X[0]` (R78). -/
def domAtanS1 (c : Cfg) (a : Word) : Bool := fle posZero a && fle a c.atanX[0]
/-- ATAN_S2: `0 <= a`, `+inf` included (R78). -/
def domAtanS2 (a : Word) : Bool := fle posZero a
/-- ATAN: not NaN (R78). -/
def domAtan (a : Word) : Bool := !isNaN a
/-- ATAN2: `a` and `b` both finite (R78). -/
def domAtan2 (a b : Word) : Bool := isFinite a && isFinite b
/-- EXP2_S1: `-0.5 <= a <= 0.5` (R78). -/
def domExp2S1 (a : Word) : Bool := fle fm0_5 a && fle a f0_5
/-- EXP2: not NaN (R78). -/
def domExp2 (a : Word) : Bool := !isNaN a
/-- EXP: finite (R78). -/
def domExp (a : Word) : Bool := isFinite a
/-- LOG2_S1: `1 <= a <= 2` (R78, 90 C4). -/
def domLog2S1 (a : Word) : Bool := fle f1 a && fle a f2
/-- LOG2: finite (R78). -/
def domLog2 (a : Word) : Bool := isFinite a
/-- LOG: finite (R78). -/
def domLog (a : Word) : Bool := isFinite a

end Sys2Proof.Machine
end

