-- ==== Sys2Proof/Syntax.lean ====
section
/-!
DEFINITION. The sixteen operations of the APX core (spec R42), one constructor per row of
spec/opcode_table.json, in the table's order.
-/

namespace Sys2Proof

/-- A command whose operation code is admitted (R42). Each constructor carries both operand fields of the
command word (R40): `a`, and `b`, which only ATAN2 uses and the fifteen others ignore (R43). -/
inductive Instr where
  /-- op 0x00, `FLOOR a` (R75). -/
  | floor (a b : Word)
  /-- op 0x01, `SIN_S1 a` (R85). -/
  | sinS1 (a b : Word)
  /-- op 0x02, `SIN_S2 a` (R86). -/
  | sinS2 (a b : Word)
  /-- op 0x03, `SIN_S3 a` (R87). -/
  | sinS3 (a b : Word)
  /-- op 0x04, `SIN a` (R88). -/
  | sin (a b : Word)
  /-- op 0x05, `COS a` (R89). -/
  | cos (a b : Word)
  /-- op 0x06, `ATAN_S1 a` (R95). -/
  | atanS1 (a b : Word)
  /-- op 0x07, `ATAN_S2 a` (R98). -/
  | atanS2 (a b : Word)
  /-- op 0x08, `ATAN a` (R99). -/
  | atan (a b : Word)
  /-- op 0x09, `ATAN2 y, x` with `y` in `a` and `x` in `b` (R100, R43). -/
  | atan2 (a b : Word)
  /-- op 0x0A, `EXP2_S1 a` (R110). -/
  | exp2S1 (a b : Word)
  /-- op 0x0B, `EXP2 a` (R112). -/
  | exp2 (a b : Word)
  /-- op 0x0C, `EXP a` (R113). -/
  | exp (a b : Word)
  /-- op 0x0D, `LOG2_S1 a` (R120). -/
  | log2S1 (a b : Word)
  /-- op 0x0E, `LOG2 a` (R122). -/
  | log2 (a b : Word)
  /-- op 0x0F, `LOG a` (R123). -/
  | log (a b : Word)
  deriving DecidableEq, Repr

/-- The operand field `a` of a command (R40). -/
def Instr.opA : Instr → Word
  | .floor a _ | .sinS1 a _ | .sinS2 a _ | .sinS3 a _ | .sin a _ | .cos a _ | .atanS1 a _ | .atanS2 a _
  | .atan a _ | .atan2 a _ | .exp2S1 a _ | .exp2 a _ | .exp a _ | .log2S1 a _ | .log2 a _ | .log a _ => a

/-- The operand field `b` of a command (R40). -/
def Instr.opB : Instr → Word
  | .floor _ b | .sinS1 _ b | .sinS2 _ b | .sinS3 _ b | .sin _ b | .cos _ b | .atanS1 _ b | .atanS2 _ b
  | .atan _ b | .atan2 _ b | .exp2S1 _ b | .exp2 _ b | .exp _ b | .log2S1 _ b | .log2 _ b | .log _ b => b

end Sys2Proof
end

