-- ==== Sys2Proof/WellFormed.lean ====
section
/-!
DEFINITION. Well-formedness: of an instruction (every one is, spec R45 and R43), of a command word (spec R42,
R44), and of a configuration (spec R5, each check under a name of its own).
-/

namespace Sys2Proof

open Sys2Proof.Machine

/-- "Every 64-bit pattern is a legal operand pattern" (R45) and any `b` is admitted in a one-operand command
(R43, 93 U6), so every term of `Instr` is well formed. -/
def Instr.wellFormed : Instr → Bool
  | .floor _ _ | .sinS1 _ _ | .sinS2 _ _ | .sinS3 _ _ | .sin _ _ | .cos _ _ | .atanS1 _ _ | .atanS2 _ _
  | .atan _ _ | .atan2 _ _ | .exp2S1 _ _ | .exp2 _ _ | .exp _ _ | .log2S1 _ _ | .log2 _ _ | .log _ _ => true

/-- The assembler's form of a command: `b` is zero unless the operation is ATAN2 (R43, R47). -/
def Instr.assembled : Instr → Bool
  | .atan2 _ _ => true
  | .floor _ b | .sinS1 _ b | .sinS2 _ b | .sinS3 _ b | .sin _ b | .cos _ b | .atanS1 _ b | .atanS2 _ b
  | .atan _ b | .exp2S1 _ b | .exp2 _ b | .exp _ b | .log2S1 _ b | .log2 _ b | .log _ b => b == 0#64

/-- A command word is admitted when `op[7:4]` is zero, and reserved otherwise (R42, R44). -/
def CmdWord.admitted (c : CmdWord) : Bool := c.extractLsb' 132 4 == 0#4

/-- "every entry of every coefficient table is a finite binary64 value" (R5). -/
def Cfg.coeffsFinite (c : Cfg) : Bool :=
  c.sinC.toList.all isFinite && c.atanC.toList.all isFinite && c.exp2P.toList.all isFinite
    && c.exp2Q.toList.all isFinite && c.log2P.toList.all isFinite && c.log2Q.toList.all isFinite

/-- "`ATAN_X[0..7]` is strictly increasing, positive and finite, `ATAN_X[8]` is `+inf`" (R5). -/
def Cfg.boundsSorted (c : Cfg) : Bool :=
  [c.atanX[0], c.atanX[1], c.atanX[2], c.atanX[3], c.atanX[4], c.atanX[5], c.atanX[6], c.atanX[7]].all
      (fun x => isFinite x && flt posZero x)
    && flt c.atanX[0] c.atanX[1] && flt c.atanX[1] c.atanX[2] && flt c.atanX[2] c.atanX[3]
    && flt c.atanX[3] c.atanX[4] && flt c.atanX[4] c.atanX[5] && flt c.atanX[5] c.atanX[6]
    && flt c.atanX[6] c.atanX[7] && c.atanX[8] == posInf

/-- "`ATAN_RCP[1..8]` and `ATAN_RCP2P1[1..8]` are finite and non-negative" (R5). -/
def Cfg.reciprocalsNonneg (c : Cfg) : Bool :=
  (c.atanRcp.toList.drop 1 ++ c.atanRcp2p1.toList.drop 1).all (fun x => isFinite x && fle posZero x)

/-- "`NAN_PATTERN` is a quiet NaN pattern (bits[62:52] all ones, bit 51 one)" (R5). -/
def Cfg.sentinelQuiet (c : Cfg) : Bool := isQuietNaN c.nanPattern

/-- A well-formed configuration (R5): "The model is defined only for well-formed configurations". -/
def Cfg.wellFormed (c : Cfg) : Bool :=
  c.coeffsFinite && c.boundsSorted && c.reciprocalsNonneg && c.sentinelQuiet

end Sys2Proof
end

