-- ==== Sys2Proof/Decode.lean ====
section
/-!
DEFINITION. Decoding and encoding of command words (spec R40, R42, R43, R45, R49). The decoder is total on
136-bit words; a reserved operation code is rejected by name (R44).
-/

namespace Sys2Proof

/-- What decoding answers: a row of R42, or `RESERVED` with the code (R49). -/
inductive Decoded where
  | instr (i : Instr)
  | reserved (op : OpCode)
  deriving DecidableEq, Repr

/-- The field `op = c[135:128]` (R40). -/
def CmdWord.op (c : CmdWord) : OpCode := c.extractLsb' 128 8
/-- The field `a = c[127:64]`, taken whole (R40, R45). -/
def CmdWord.opA (c : CmdWord) : Word := c.extractLsb' 64 64
/-- The field `b = c[63:0]`, taken whole (R40, R45). -/
def CmdWord.opB (c : CmdWord) : Word := c.extractLsb' 0 64
/-- The word `{op, a, b}` (R40). -/
def CmdWord.make (op : OpCode) (a b : Word) : CmdWord := (op ++ a) ++ b

/-- The operation code map (R42): the row whose `op` is the given code, `RESERVED` when there is none (R44). -/
def decodeFields (op : OpCode) (a b : Word) : Decoded :=
  match op.toNat with
  | 0x00 => .instr (.floor a b)
  | 0x01 => .instr (.sinS1 a b)
  | 0x02 => .instr (.sinS2 a b)
  | 0x03 => .instr (.sinS3 a b)
  | 0x04 => .instr (.sin a b)
  | 0x05 => .instr (.cos a b)
  | 0x06 => .instr (.atanS1 a b)
  | 0x07 => .instr (.atanS2 a b)
  | 0x08 => .instr (.atan a b)
  | 0x09 => .instr (.atan2 a b)
  | 0x0A => .instr (.exp2S1 a b)
  | 0x0B => .instr (.exp2 a b)
  | 0x0C => .instr (.exp a b)
  | 0x0D => .instr (.log2S1 a b)
  | 0x0E => .instr (.log2 a b)
  | 0x0F => .instr (.log a b)
  | _ => .reserved op

/-- Decoding is a total function on 136-bit words (R49). -/
def decode (c : CmdWord) : Decoded := decodeFields c.op c.opA c.opB

/-- The operation code of each row (R42). -/
def opcode : Instr → OpCode
  | .floor _ _ => 0x00#8
  | .sinS1 _ _ => 0x01#8
  | .sinS2 _ _ => 0x02#8
  | .sinS3 _ _ => 0x03#8
  | .sin _ _ => 0x04#8
  | .cos _ _ => 0x05#8
  | .atanS1 _ _ => 0x06#8
  | .atanS2 _ _ => 0x07#8
  | .atan _ _ => 0x08#8
  | .atan2 _ _ => 0x09#8
  | .exp2S1 _ _ => 0x0A#8
  | .exp2 _ _ => 0x0B#8
  | .exp _ _ => 0x0C#8
  | .log2S1 _ _ => 0x0D#8
  | .log2 _ _ => 0x0E#8
  | .log _ _ => 0x0F#8

/-- The command word of an instruction, `{op, a, b}` (R40, R42). -/
def encode (i : Instr) : CmdWord := CmdWord.make (opcode i) i.opA i.opB

/-- The host's question: the instruction read from a command whose bits are `w`, numbered as
spec/opcode_table.json numbers them. There is one word, 136 bits, whose bit 0 is its least significant bit, so the
bits go to the decoder as they stand; bits above `nbits` are zero. -/
def decodeTableWord (nbits w : Nat) : Option Instr :=
  if nbits ≤ 136 then
    match decode (BitVec.ofNat 136 (w % 2 ^ nbits)) with
    | .instr i => some i
    | .reserved _ => none
  else none

end Sys2Proof
end

