-- ==== Sys2Proof/Machine/Eval.lean ====
section
/-!
DEFINITION. The evaluators (spec R72, R73) and the context a function of R78 reads: the configuration and the
pattern drawn for an arithmetic NaN.
-/

namespace Sys2Proof.Machine

/-- What an operation's function reads beside its operands (R79): the constant tables of `Cfg`, and the NaN
pattern drawn for this command (R71 b). -/
structure Ctx where
  cfg : Cfg
  nan : Word
  deriving DecidableEq, Repr

/-- `horner(T, n, y)` (R72): from the highest index down, one `fmul` and one `fadd` a step, each rounded. The
list is the table `T[0..n-1]`; `n >= 1` in every use. -/
def horner (nan : Word) : List Word → Word → Word
  | [], _ => posZero
  | [c], _ => c
  | c :: cs, y => fadd nan (fmul nan (horner nan cs y) y) c

/-- `oddpoly(T, n, x) = fmul(horner(T, n, fmul(x, x)), x)` (R73). -/
def oddpoly (nan : Word) (t : List Word) (x : Word) : Word :=
  fmul nan (horner nan t (fmul nan x x)) x

end Sys2Proof.Machine
end

