-- ==== Sys2Proof/Machine/State.lean ====
section
/-!
DEFINITION. The machine's state (spec R16, R17, R22, R24), its state after reset, and the reasons a step can
stop.

The unit has no registers, program counter, flags, control registers, memory, trap or interrupt state (R10,
R12 to R15, R23, R25, R130, R132): what it has is the command in flight.
-/

namespace Sys2Proof.Machine

open Sys2Proof

/-- A fault of the machine. There is none: "The unit raises no synchronous exception" (R130), it has no fault
pin and no trap (R134, D29), so nothing raises one and the type has no constructor. -/
inductive Fault where
  deriving DecidableEq, Repr

/-- Why the model gives a step no meaning. -/
inductive Refusal where
  /-- An instruction whose meaning is not written yet; raised only by an arm of `exec`. Safe: nothing can be
  proved of a run that meets it. No arm raises it. -/
  | notModelled (mnemonic : String)
  /-- The unit holds a command with a reserved operation code: it is "refused for good" (R44, R19, 93 U3), under
  reset too (log entry 10). Raised by `unitStep`. Safe: "this errs toward unprovable" (R44). -/
  | reservedOp (op : OpCode)
  /-- The host changed `cmd` while `cmd_valid` was asserted and before acceptance (93 U7: "outside the model
  (refuse ...)"; R22, R154 d), raised by `hostDrive`. Safe: nothing can be proved of such a run. -/
  | hostChangedCommand
  deriving DecidableEq, Repr

/-- The unit's transient state `U = IDLE | BUSY(op, a, b) | DONE(res)` (R17). -/
inductive Unit64 where
  | idle
  | busy (op : OpCode) (a b : Word)
  | done (res : Word)
  deriving DecidableEq, Repr

/-- The levels of the input ports during one step (R16). -/
structure Pins where
  /-- `clk`: "no rule of the model depends on it". -/
  clk : Bool
  /-- `rst`: the reset request (R150). -/
  rst : Bool
  /-- `cmd_valid`: the host offers a command. -/
  cmdValid : Bool
  /-- `cmd`: the command word (R40). -/
  cmd : CmdWord
  /-- `rsp_ready`: the host takes the response. -/
  rspReady : Bool
  deriving DecidableEq, Repr

/-- All ports low: no reset, no offer, no take. -/
def Pins.quiet : Pins := { clk := false, rst := false, cmdValid := false, cmd := 0#136, rspReady := false }

/-- The state of one unit, of the ports the host drives, and of what the host holds. -/
structure State where
  /-- The configuration (R4): a parameter, read-only, written by no step (R5, R21; log entry 1). -/
  cfg : Cfg
  /-- The unit's transient state `U` (R17). -/
  unit : Unit64
  /-- The input ports during the coming step (R16). -/
  pins : Pins
  /-- What the host will drive in the steps after it, first first; when it is empty the levels stay (R22;
  log entry 6). -/
  script : List Pins
  /-- The accepted command whose response the host awaits (R20, R150; log entry 8). -/
  pending : Option CmdWord
  /-- The (command, response) pairs the host has taken, oldest first (R20, R22; log entry 8). -/
  record : List (CmdWord × Word)
  /-- Which stream of free values this unit draws from: the MODEL'S field (log entry 4). -/
  stream : Nat
  /-- How many draws this unit has made: the MODEL'S field (log entry 4). -/
  draws : Nat
  deriving DecidableEq, Repr

/-- The machine right after reset (R24, R151): `U = IDLE`, the tables constant, nothing in flight. The ports
are the host's: all low, `rst` deasserted (log entry 7). -/
def State.reset : State where
  cfg := powerOnCfg
  unit := .idle
  pins := Pins.quiet
  script := []
  pending := none
  record := []
  stream := 0
  draws := 0

end Sys2Proof.Machine
end

