-- ==== Sys2Proof/Machine/Ops.lean ====
section
/-!
DEFINITION. The named operations over the state: the free values, the end of a compute step, the steps accept,
deliver and reset, the host's move between steps, and the output ports (spec R16 to R20, R22, R150).

There is no operation that takes an exception and none that returns from one: the unit raises none (R130, R134,
R135).
-/

namespace Sys2Proof.Machine

open Sys2Proof

/-- The context a function reads in this state: the configuration and a fresh draw for the pattern of an
arithmetic NaN (R71 b; log entry 5). -/
def State.ctx (s : State) : Ctx := { cfg := s.cfg, nan := asNaN (Config.arithNaN s.stream s.draws) }

/-- `UNSPEC64`, drawn freely at this use (R8, R78; log entry 4). -/
def State.unspec (s : State) : Word := Config.unspec64 s.stream s.draws

/-- `U <- DONE(v)`, the effect of step compute (R19); the draws of this command are used up. -/
def State.respond (s : State) (v : Word) : State := { s with unit := .done v, draws := s.draws + 1 }

/-- The result of a command (R78): the operation's function inside the command domain, `UNSPEC64` outside it. -/
def State.answer (s : State) (inDomain : Bool) (f : Ctx → Word) : Host.Outcome State Fault Refusal :=
  .next (s.respond (if inDomain then f s.ctx else s.unspec))

/-- `cmd_ready`: "true exactly in phase IDLE" (R16). -/
def State.cmdReady (s : State) : Bool :=
  match s.unit with
  | .idle => true
  | .busy _ _ _ | .done _ => false

/-- `rsp_valid`: "true exactly in phase DONE" (R16). -/
def State.rspValid (s : State) : Bool :=
  match s.unit with
  | .done _ => true
  | .idle | .busy _ _ _ => false

/-- `rsp`: the result while `rsp_valid`, any value otherwise (R16, R24, 93 U5; log entry 11). -/
def State.rsp (s : State) : Word :=
  match s.unit with
  | .done res => res
  | .idle | .busy _ _ _ => Config.rspIdle s.stream s.draws

/-- Step accept: `U <- BUSY(c[135:128], c[127:64], c[63:0])` (R18), the command awaiting its response (R20). -/
def State.acceptWord (s : State) (c : CmdWord) : State :=
  { s with unit := .busy c.op c.opA c.opB, pending := some c, draws := s.draws + 1 }

/-- Step deliver: "the host receives `res` on `rsp`; `U <- IDLE`" (R20), and the host records the pair (R22). -/
def State.deliver (s : State) (res : Word) : State :=
  { s with
    unit := .idle
    pending := none
    record := s.record ++ s.pending.toList.map (fun c => (c, res))
    draws := s.draws + 1 }

/-- Step reset: `U <- IDLE`; a command in flight "is dropped: no response is ever delivered for it" (R150). -/
def State.dropCommand (s : State) : State := { s with unit := .idle, pending := none, draws := s.draws + 1 }

/-- No step of the unit is enabled: nothing changes but the free values (R18, R20; log entry 9). -/
def State.wait (s : State) : State := { s with draws := s.draws + 1 }

/-- Step accept is enabled and taken: IDLE, `rst` not asserted, a command offered (R18). -/
def State.accepts (s : State) : Bool := !s.pins.rst && s.cmdReady && s.pins.cmdValid

/-- The host breaks its duty when it goes from the levels of state `s` to `p`: it "keeps `cmd` unchanged while
`cmd_valid` is true until the command is accepted" (R22, R154 d). -/
def State.breaksOffer (s : State) (p : Pins) : Bool :=
  s.pins.cmdValid && !s.accepts && p.cmdValid && p.cmd != s.pins.cmd

/-- The host's move after the unit went from `s` to `t`: it drives the next levels of its script, or leaves
them as they are when the script is empty (R22); a change of `cmd` before acceptance is outside the model
(93 U7). -/
def hostDrive (s t : State) : Host.Outcome State Fault Refusal :=
  match s.script with
  | [] => .next t
  | p :: ps => if s.breaksOffer p then .refused .hostChangedCommand else .next { t with pins := p, script := ps }

/-- The state in which the unit has just accepted command word `c`, with reset and offer deasserted, so that
its next step computes it (R18, R19; log entry 12). -/
def State.loadCommand (s : State) (c : CmdWord) : State :=
  { s with
    unit := .busy c.op c.opA c.opB
    pending := some c
    pins := { s.pins with rst := false, cmdValid := false } }

end Sys2Proof.Machine
end

