-- ==== Sys2Proof/Machine/Arctangent.lean ====
section
/-!
DEFINITION. The arctangent pipeline: ATAN_S1, ATAN_S2, ATAN, ATAN2 (spec R95 to R103).
-/

namespace Sys2Proof.Machine

open Sys2Proof

/-- The function `ATAN_S1(x)` (R95). -/
def atanS1Fn (k : Ctx) (x : Word) : Word := oddpoly k.nan k.cfg.atanC.toList x

/-- The eight indices the selection compares, in R96's order; `ATAN_X[8]` is never compared (R103). -/
def comparedIndices : List (Fin 9) := [0, 1, 2, 3, 4, 5, 6, 7]

/-- The partition index (R96): "the least `i` with `x < ATAN_X[i]`, and 8 when there is none". -/
def atanIndex (c : Cfg) (x : Word) : Fin 9 :=
  (comparedIndices.find? (fun i => flt x c.atanX[i])).getD 8

/-- The partition angle `fmul(i2f(2 * i), PI_32)` (R98). -/
def atanAngle (k : Ctx) (i : Fin 9) : Word := fmul k.nan (i2f (2 * (i.val : Int))) pi32

/-- The reduced argument `t = (1/x_i) - ((1/x_i)^2 + 1) / (1/x_i + x)`, each operation rounded (R98). -/
def atanReduced (k : Ctx) (i : Fin 9) (x : Word) : Word :=
  let c := k.cfg.atanRcp[i]
  let d := k.cfg.atanRcp2p1[i]
  let s := fadd k.nan c x
  let q := fdiv k.nan d s
  fsub k.nan c q

/-- The function `ATAN_S2(x)` (R98). -/
def atanS2Fn (k : Ctx) (x : Word) : Word :=
  let i := atanIndex k.cfg x
  if i = 0 then atanS1Fn k x
  else
    let t := atanReduced k i x
    let ang := atanAngle k i
    if flt t posZero then fsub k.nan ang (atanS1Fn k (fneg t)) else fadd k.nan ang (atanS1Fn k t)

/-- The function `ATAN(x)` (R99). -/
def atanFn (k : Ctx) (x : Word) : Word :=
  if flt x posZero then fneg (atanS2Fn k (fneg x)) else atanS2Fn k x

/-- The function `ATAN2(y, x)` (R100). -/
def atan2Fn (k : Ctx) (y x : Word) : Word :=
  if fgt x posZero then atanFn k (fdiv k.nan y x)
  else if flt x posZero then
    let r := atanFn k (fdiv k.nan y x)
    if flt y posZero then fsub k.nan r pi else fadd k.nan r pi
  else if fgt y posZero then halfPi
  else if flt y posZero then fneg halfPi
  else k.cfg.nanPattern

/-- Command ATAN_S1 (R95, op 0x06). -/
def execAtanS1 (a _b : Word) (s : State) : Host.Outcome State Fault Refusal :=
  s.answer (domAtanS1 s.cfg a) (fun k => atanS1Fn k a)

/-- Command ATAN_S2 (R98, op 0x07). -/
def execAtanS2 (a _b : Word) (s : State) : Host.Outcome State Fault Refusal :=
  s.answer (domAtanS2 a) (fun k => atanS2Fn k a)

/-- Command ATAN (R99, op 0x08). -/
def execAtan (a _b : Word) (s : State) : Host.Outcome State Fault Refusal :=
  s.answer (domAtan a) (fun k => atanFn k a)

/-- Command ATAN2 (R100, op 0x09): `a` is `y`, `b` is `x` (R43). -/
def execAtan2 (a b : Word) (s : State) : Host.Outcome State Fault Refusal :=
  s.answer (domAtan2 a b) (fun k => atan2Fn k a b)

end Sys2Proof.Machine
end

