-- ==== Sys2Proof/Machine/FloorOp.lean ====
section
/-!
DEFINITION. FLOOR (spec R75).
-/

namespace Sys2Proof.Machine

open Sys2Proof

/-- The function `FLOOR(x)` (R75). -/
def floorFn (k : Ctx) (x : Word) : Word :=
  let t := ftrunc k.nan x
  if flt x posZero && !(feq t x) then fsub k.nan t f1 else t

/-- Command FLOOR (R75, op 0x00). -/
def execFloor (a _b : Word) (s : State) : Host.Outcome State Fault Refusal :=
  s.answer (domFloor a) (fun k => floorFn k a)

end Sys2Proof.Machine
end

