-- ==== Sys2Proof/Machine/Exponential.lean ====
section
/-!
DEFINITION. The base-2 exponential pipeline: EXP2_S1, EXP2, EXP (spec R110 to R115).
-/

namespace Sys2Proof.Machine

open Sys2Proof

/-- The numerator `P` of EXP2_S1, scaled by `x` last (R110). -/
def exp2Num (k : Ctx) (x : Word) : Word := oddpoly k.nan k.cfg.exp2P.toList x

/-- The denominator polynomial `Q` of EXP2_S1 (R110). -/
def exp2Den (k : Ctx) (x : Word) : Word := horner k.nan k.cfg.exp2Q.toList (fmul k.nan x x)

/-- The function `EXP2_S1(x) = (Q + P) / (Q - P)` (R110, R74). -/
def exp2S1Fn (k : Ctx) (x : Word) : Word :=
  let p := exp2Num k x
  let q := exp2Den k x
  fdiv k.nan (fadd k.nan q p) (fsub k.nan q p)

/-- The shifted remainder `(x - FLOOR(x)) - 0.5` (R112). -/
def exp2Remainder (k : Ctx) (x : Word) : Word := fsub k.nan (fsub k.nan x (floorFn k x)) f0_5

/-- The function `EXP2(x)` (R112), "defined for every operand that is not a NaN" (R78). -/
def exp2Fn (k : Ctx) (x : Word) : Word :=
  let xi := floorFn k x
  if flt xi fm1022 then posZero
  else if fgt xi f1023 then posInf
  else
    let w := pow2i (f2i xi)
    fmul k.nan (fmul k.nan w sqrt2) (exp2S1Fn k (exp2Remainder k x))

/-- The function `EXP(x) = EXP2(x * LOG2E)` (R113). -/
def expFn (k : Ctx) (x : Word) : Word := exp2Fn k (fmul k.nan x log2e)

/-- Command EXP2_S1 (R110, op 0x0A). -/
def execExp2S1 (a _b : Word) (s : State) : Host.Outcome State Fault Refusal :=
  s.answer (domExp2S1 a) (fun k => exp2S1Fn k a)

/-- Command EXP2 (R112, op 0x0B). -/
def execExp2 (a _b : Word) (s : State) : Host.Outcome State Fault Refusal :=
  s.answer (domExp2 a) (fun k => exp2Fn k a)

/-- Command EXP (R113, op 0x0C). -/
def execExp (a _b : Word) (s : State) : Host.Outcome State Fault Refusal :=
  s.answer (domExp a) (fun k => expFn k a)

end Sys2Proof.Machine
end

