-- ==== Sys2Proof/Machine/Logarithm.lean ====
section
/-!
DEFINITION. The base-2 logarithm pipeline: LOG2_S1, LOG2, LOG (spec R120 to R125).
-/

namespace Sys2Proof.Machine

open Sys2Proof

/-- The function `LOG2_S1(x) = P / Q` (R120, R74). -/
def log2S1Fn (k : Ctx) (x : Word) : Word :=
  fdiv k.nan (horner k.nan k.cfg.log2P.toList x) (horner k.nan k.cfg.log2Q.toList x)

/-- The function `LOG2(x)` (R122). -/
def log2Fn (k : Ctx) (x : Word) : Word :=
  if fle x posZero then k.cfg.nanPattern
  else fadd k.nan (i2f (unbiased x)) (log2S1Fn k (normmant x))

/-- The function `LOG(x) = LOG2(x) * LN2` (R123). -/
def logFn (k : Ctx) (x : Word) : Word := fmul k.nan (log2Fn k x) ln2

/-- Command LOG2_S1 (R120, op 0x0D). -/
def execLog2S1 (a _b : Word) (s : State) : Host.Outcome State Fault Refusal :=
  s.answer (domLog2S1 a) (fun k => log2S1Fn k a)

/-- Command LOG2 (R122, op 0x0E). -/
def execLog2 (a _b : Word) (s : State) : Host.Outcome State Fault Refusal :=
  s.answer (domLog2 a) (fun k => log2Fn k a)

/-- Command LOG (R123, op 0x0F). -/
def execLog (a _b : Word) (s : State) : Host.Outcome State Fault Refusal :=
  s.answer (domLog a) (fun k => logFn k a)

end Sys2Proof.Machine
end

