-- ==== Sys2Proof/Machine/Sine.lean ====
section
/-!
DEFINITION. The sine pipeline and the cosine: SIN_S1, SIN_S2, SIN_S3, SIN, COS (spec R85 to R91).
-/

namespace Sys2Proof.Machine

open Sys2Proof

/-- The function `SIN_S1(x)` (R85). -/
def sinS1Fn (k : Ctx) (x : Word) : Word := oddpoly k.nan k.cfg.sinC.toList x

/-- The function `SIN_S2(x)` (R86). -/
def sinS2Fn (k : Ctx) (x : Word) : Word :=
  let s := sinS1Fn k (fmul k.nan f4 x)
  fmul k.nan s (fsub k.nan f3 (fmul k.nan f4 (fmul k.nan s s)))

/-- The function `SIN_S3(x)` (R87). -/
def sinS3Fn (k : Ctx) (x : Word) : Word :=
  if flt x f0_25 then sinS2Fn k x
  else if flt x f0_5 then sinS2Fn k (fsub k.nan f0_5 x)
  else if flt x f0_75 then fneg (sinS2Fn k (fsub k.nan x f0_5))
  else fneg (sinS2Fn k (fsub k.nan f1 x))

/-- The phase `t - FLOOR(t)` that SIN and COS hand to SIN_S3 (R88, R89). -/
def phase (k : Ctx) (t : Word) : Word := fsub k.nan t (floorFn k t)

/-- The function `SIN(x)` (R88). -/
def sinFn (k : Ctx) (x : Word) : Word := sinS3Fn k (phase k (fdiv k.nan x twoPi))

/-- The function `COS(x)` (R89). -/
def cosFn (k : Ctx) (x : Word) : Word := sinS3Fn k (phase k (fadd k.nan (fdiv k.nan x twoPi) f0_25))

/-- Command SIN_S1 (R85, op 0x01). -/
def execSinS1 (a _b : Word) (s : State) : Host.Outcome State Fault Refusal :=
  s.answer (domSinS1 a) (fun k => sinS1Fn k a)

/-- Command SIN_S2 (R86, op 0x02). -/
def execSinS2 (a _b : Word) (s : State) : Host.Outcome State Fault Refusal :=
  s.answer (domSinS2 a) (fun k => sinS2Fn k a)

/-- Command SIN_S3 (R87, op 0x03). -/
def execSinS3 (a _b : Word) (s : State) : Host.Outcome State Fault Refusal :=
  s.answer (domSinS3 a) (fun k => sinS3Fn k a)

/-- Command SIN (R88, op 0x04). -/
def execSin (a _b : Word) (s : State) : Host.Outcome State Fault Refusal :=
  s.answer (domSin a) (fun k => sinFn k a)

/-- Command COS (R89, op 0x05). -/
def execCos (a _b : Word) (s : State) : Host.Outcome State Fault Refusal :=
  s.answer (domCos a) (fun k => cosFn k a)

end Sys2Proof.Machine
end

