-- ==== Sys2Proof/Machine/Dispatch.lean ====
section
/-!
DEFINITION. Step compute for an admitted command (spec R19): one arm per row of R42, each a call of the
operation's meaning.
-/

namespace Sys2Proof.Machine

open Sys2Proof

def exec (i : Instr) (s : State) : Host.Outcome State Fault Refusal :=
  match i with
  | .floor a b => Sys2Proof.Machine.execFloor a b s
  | .sinS1 a b => Sys2Proof.Machine.execSinS1 a b s
  | .sinS2 a b => Sys2Proof.Machine.execSinS2 a b s
  | .sinS3 a b => Sys2Proof.Machine.execSinS3 a b s
  | .sin a b => Sys2Proof.Machine.execSin a b s
  | .cos a b => Sys2Proof.Machine.execCos a b s
  | .atanS1 a b => Sys2Proof.Machine.execAtanS1 a b s
  | .atanS2 a b => Sys2Proof.Machine.execAtanS2 a b s
  | .atan a b => Sys2Proof.Machine.execAtan a b s
  | .atan2 a b => Sys2Proof.Machine.execAtan2 a b s
  | .exp2S1 a b => Sys2Proof.Machine.execExp2S1 a b s
  | .exp2 a b => Sys2Proof.Machine.execExp2 a b s
  | .exp a b => Sys2Proof.Machine.execExp a b s
  | .log2S1 a b => Sys2Proof.Machine.execLog2S1 a b s
  | .log2 a b => Sys2Proof.Machine.execLog2 a b s
  | .log a b => Sys2Proof.Machine.execLog a b s

end Sys2Proof.Machine
end

