-- ==== Sys2Proof/Machine/UnitStep.lean ====
section
/-!
DEFINITION. The unit's own step (spec R18 to R20, R150, R133 c, R44): a unit that holds a reserved command is
refused for good; else reset wins; else accept in IDLE, compute in BUSY, deliver in DONE; when none is enabled the
unit stays as it is (log entry 9).
-/

namespace Sys2Proof.Machine

open Sys2Proof

/-- One step of the unit under the present levels of its input ports. A held reserved command is refused whatever the
levels, also under `rst`: "a state that holds such a command is marked refused for good" (R44; log entry 10). -/
def unitStep (s : State) : Host.Outcome State Fault Refusal :=
  match s.unit with
  | .idle =>
    .next (if s.pins.rst then s.dropCommand else if s.pins.cmdValid then s.acceptWord s.pins.cmd else s.wait)
  | .busy op a b =>
    match decodeFields op a b with
    | .instr i => if s.pins.rst then .next s.dropCommand else exec i s
    | .reserved code => .refused (.reservedOp code)
  | .done res =>
    .next (if s.pins.rst then s.dropCommand else if s.pins.rspReady then s.deliver res else s.wait)

end Sys2Proof.Machine
end

