-- ==== Sys2Proof/Machine/Step.lean ====
section
/-!
DEFINITION. One step of the machine: the unit's step under the ports' levels, then the host's move to its next
levels (spec R18 to R22, R150).
-/

namespace Sys2Proof.Machine

open Sys2Proof

/-- One step: the unit's, then the host's. A refusal of either is the step's outcome. -/
def step (s : State) : Host.Outcome State Fault Refusal :=
  match unitStep s with
  | .next t => hostDrive s t
  | .fault r => .fault r
  | .refused r => .refused r

/-- `s` with the command of bits `w` (numbered as spec/opcode_table.json numbers them, zero above `nbits`)
accepted by the unit, so that the very next `step` computes it (log entry 12). -/
def State.withFetchWord (s : State) (nbits w : Nat) : State :=
  s.loadCommand (BitVec.ofNat 136 (w % 2 ^ nbits))

end Sys2Proof.Machine
end

