-- ==== Sys2Proof/Machine/Assembler.lean ====
section
/-!
DEFINITION. The assembler syntax of spec R47 and the host that runs a program: one line per command,
`[name =] MNEMONIC operand [, operand]`, operands a hexadecimal pattern, a literal, `inf`, or a host-side name;
the host issues the commands in order, each after the response of the one before.

Names are variables of the host, not registers of the unit (R47). What R47 leaves open of the lexical form is
log entry 13.
-/

namespace Sys2Proof.Machine

open Sys2Proof

/-- An operand of a line (R47): (i) a pattern, (ii) a literal of magnitude `p / q` or an infinity, (iii) a name
bound by an earlier line. -/
inductive AsmOperand where
  | pattern (w : Word)
  | number (neg : Bool) (p q : Nat)
  | infinity (neg : Bool)
  | name (n : List Char)
  deriving DecidableEq, Repr

/-- One line (R47). -/
structure AsmLine where
  binds : Option (List Char)
  mnemonic : List Char
  operands : List AsmOperand
  deriving DecidableEq, Repr

/-- The host's variables (R47), the newest binding first (log entry 21). -/
abbrev AsmEnv := List (List Char × Word)

/-- The 64 bits an operand stands for: a literal is "the binary64 value nearest to it, ties to even" (R47). -/
def AsmOperand.bits (env : AsmEnv) : AsmOperand → Option Word
  | .pattern w => some w
  | .number neg p q => some (fround neg (p * oneUnits) q)
  | .infinity neg => some (if neg then negInf else posInf)
  | .name n => env.lookup n

/-- The sixteen mnemonics with one operand or two (R42, R43): "the assembler writes zero" in an unused `b`. -/
def mnemonicInstr (m : List Char) (ops : List Word) : Option Instr :=
  match m, ops with
  | ['F', 'L', 'O', 'O', 'R'], [a] => some (.floor a 0)
  | ['S', 'I', 'N', '_', 'S', '1'], [a] => some (.sinS1 a 0)
  | ['S', 'I', 'N', '_', 'S', '2'], [a] => some (.sinS2 a 0)
  | ['S', 'I', 'N', '_', 'S', '3'], [a] => some (.sinS3 a 0)
  | ['S', 'I', 'N'], [a] => some (.sin a 0)
  | ['C', 'O', 'S'], [a] => some (.cos a 0)
  | ['A', 'T', 'A', 'N', '_', 'S', '1'], [a] => some (.atanS1 a 0)
  | ['A', 'T', 'A', 'N', '_', 'S', '2'], [a] => some (.atanS2 a 0)
  | ['A', 'T', 'A', 'N'], [a] => some (.atan a 0)
  | ['A', 'T', 'A', 'N', '2'], [y, x] => some (.atan2 y x)
  | ['E', 'X', 'P', '2', '_', 'S', '1'], [a] => some (.exp2S1 a 0)
  | ['E', 'X', 'P', '2'], [a] => some (.exp2 a 0)
  | ['E', 'X', 'P'], [a] => some (.exp a 0)
  | ['L', 'O', 'G', '2', '_', 'S', '1'], [a] => some (.log2S1 a 0)
  | ['L', 'O', 'G', '2'], [a] => some (.log2 a 0)
  | ['L', 'O', 'G'], [a] => some (.log a 0)
  | _, _ => none

/-- A line assembles to an instruction, and its word is `encode` of it (R47, R40). -/
def assemble (env : AsmEnv) (l : AsmLine) : Option Instr :=
  (l.operands.mapM (AsmOperand.bits env)).bind (mnemonicInstr l.mnemonic)

/-- A decimal digit's value. -/
def decDigit (c : Char) : Option Nat :=
  if '0' ≤ c ∧ c ≤ '9' then some (c.toNat - '0'.toNat) else none

/-- A hexadecimal digit's value. -/
def hexDigit (c : Char) : Option Nat :=
  if '0' ≤ c ∧ c ≤ '9' then some (c.toNat - '0'.toNat)
  else if 'a' ≤ c ∧ c ≤ 'f' then some (c.toNat - 'a'.toNat + 10)
  else if 'A' ≤ c ∧ c ≤ 'F' then some (c.toNat - 'A'.toNat + 10)
  else none

/-- The longest run of digits: its value added to `acc`, its length added to `n`, and what follows it. -/
def digits (digit : Char → Option Nat) (base : Nat) : List Char → Nat → Nat → Nat × Nat × List Char
  | [], acc, n => (acc, n, [])
  | c :: cs, acc, n =>
    match digit c with
    | some d => digits digit base cs (acc * base + d) (n + 1)
    | none => (acc, n, c :: cs)

/-- Digits, an optional point and more digits: the digits' value, how many stood after the point, the rest. -/
def mantissa (digit : Char → Option Nat) (base : Nat) (cs : List Char) : Option (Nat × Nat × List Char) :=
  match digits digit base cs 0 0 with
  | (v, n, '.' :: rest) =>
    match digits digit base rest v 0 with
    | (v', k, rest') => if n + k = 0 then none else some (v', k, rest')
  | (v, n, rest) => if n = 0 then none else some (v, 0, rest)

/-- A signed decimal exponent that ends the literal. -/
def exponent (cs : List Char) : Option Int :=
  let (neg, body) :=
    match cs with
    | '-' :: r => (true, r)
    | '+' :: r => (false, r)
    | r => (false, r)
  match digits decDigit 10 body 0 0 with
  | (v, _ + 1, []) => some (if neg then -(v : Int) else v)
  | _ => none

/-- `m * base^e` as a fraction. -/
def scaled (neg : Bool) (m base : Nat) (e : Int) : AsmOperand :=
  .number neg (m * base ^ e.toNat) (base ^ (-e).toNat)

/-- A literal without its sign: `inf`, a hexadecimal floating literal with its `p`, or a decimal one (R47 ii). -/
def literal (neg : Bool) (cs : List Char) : Option AsmOperand :=
  match cs with
  | ['i', 'n', 'f'] => some (.infinity neg)
  | '0' :: 'x' :: r =>
    match mantissa hexDigit 16 r with
    | some (m, k, 'p' :: e) => (exponent e).map (fun x => scaled neg m 2 (x - 4 * k))
    | _ => none
  | r =>
    match mantissa decDigit 10 r with
    | some (m, k, []) => some (scaled neg m 10 (-(k : Int)))
    | some (m, k, c :: e) => if c = 'e' ∨ c = 'E' then (exponent e).map (fun x => scaled neg m 10 (x - k)) else none
    | none => none

/-- A name: a letter or underscore, then letters, digits and underscores. -/
def isName : List Char → Bool
  | [] => false
  | c :: cs => (c.isAlpha || c == '_') && cs.all (fun d => d.isAlphanum || d == '_')

/-- An operand (R47): `0x` and sixteen hexadecimal digits are a pattern; then a literal; then a name. -/
def operand (cs : List Char) : Option AsmOperand :=
  let pat :=
    match cs with
    | '0' :: 'x' :: r =>
      match digits hexDigit 16 r 0 0 with
      | (v, 16, []) => some (AsmOperand.pattern (BitVec.ofNat 64 v))
      | _ => none
    | _ => none
  let lit :=
    match cs with
    | '-' :: r => literal true r
    | r => literal false r
  (pat.or lit).or (if isName cs then some (.name cs) else none)

/-- Spaces at both ends taken away. -/
def trimSpaces (cs : List Char) : List Char :=
  ((cs.dropWhile Char.isWhitespace).reverse.dropWhile Char.isWhitespace).reverse

/-- The pieces of a line between the separators `c`. -/
def splitAtChar (c : Char) : List Char → List (List Char)
  | [] => [[]]
  | d :: ds =>
    match splitAtChar c ds with
    | [] => [[d]]
    | p :: ps => if d = c then [] :: p :: ps else (d :: p) :: ps

/-- `MNEMONIC operand [, operand]` (R47). -/
def command (binds : Option (List Char)) (cs : List Char) : Option AsmLine :=
  let body := trimSpaces cs
  let m := body.takeWhile (fun c => !c.isWhitespace)
  let rest := body.drop m.length
  ((splitAtChar ',' rest).mapM (fun o => operand (trimSpaces o))).map (fun ops => ⟨binds, m, ops⟩)

/-- One line of text; "A comment runs from `;` to the end of the line" (R47). -/
def parseLine (text : List Char) : Option AsmLine :=
  let body := text.takeWhile (· != ';')
  match splitAtChar '=' body with
  | [cmd] => command none cmd
  | [n, cmd] => if isName (trimSpaces n) then command (some (trimSpaces n)) cmd else none
  | _ => none

/-- The host about to call: it offers `c`, then waits to take the response, then stops (R18, R20, R22). -/
def State.offering (s : State) (c : CmdWord) : State :=
  let take : Pins := { Pins.quiet with rspReady := true }
  { s with pins := { Pins.quiet with cmdValid := true, cmd := c }, script := [take, take, Pins.quiet] }

/-- The host issues one command and takes its response: accept, compute, deliver (R18 to R20). It is meant for an IDLE
unit: on another the offer would be withdrawn before it is accepted (log entry 20). -/
def call (s : State) (c : CmdWord) : Host.Outcome State Fault Refusal := Host.Core.run core 3 (s.offering c)

/-- A line can be issued: the unit is IDLE and no other offer stands. R47 and R156 do not say where a run starts, and
the model starts it here only (DESIGN CHOICE, log entry 20). -/
def State.canIssue (s : State) : Bool := s.cmdReady && !s.pins.cmdValid

/-- The host's variables after a line whose response is `v` (R47: `name =` binds it). R47 does not say what a name
bound by two earlier lines stands for: the model allows it, and the newest binding is the one a later operand reads
(DESIGN CHOICE, log entry 21). -/
def AsmLine.bindTo (l : AsmLine) (v : Word) (env : AsmEnv) : AsmEnv :=
  match l.binds with
  | some n => (n, v) :: env
  | none => env

/-- The host runs one line: it forms the word, issues it, and binds the response (R47). Where a line cannot be issued
nothing is run and nothing is bound (log entry 20). -/
def runLine (env : AsmEnv) (s : State) (l : AsmLine) : Option (AsmEnv × State) :=
  if s.canIssue then
    (assemble env l).bind fun i =>
      match call s (encode i) with
      | .next t => t.record.getLast?.map fun r => (l.bindTo r.2 env, t)
      | .fault _ => none
      | .refused _ => none
  else none

/-- The host runs a program: "the host issues the commands in order, each after the response of the one before" (R47),
starting at an IDLE unit (log entry 20); each line leaves the unit IDLE for the next (R156). -/
def runProgram (env : AsmEnv) (s : State) : List AsmLine → Option (AsmEnv × State)
  | [] => some (env, s)
  | l :: ls => (runLine env s l).bind fun r => runProgram r.1 r.2 ls

end Sys2Proof.Machine
end

