-- ==== Sys2Proof/Machine/Functions.lean ====
section
/-!
DEFINITION. The two halves of a command (spec R78) as tables over the sixteen operations: whether its operands
lie in the command domain, and the function it applies there. A command's meaning (Machine/Dispatch.lean) is
the second under the first.
-/

namespace Sys2Proof.Machine

open Sys2Proof

/-- The operands lie in the operation's command domain (R78). -/
def inDomain (c : Cfg) : Instr → Bool
  | .floor a _ => domFloor a
  | .sinS1 a _ => domSinS1 a
  | .sinS2 a _ => domSinS2 a
  | .sinS3 a _ => domSinS3 a
  | .sin a _ => domSin a
  | .cos a _ => domCos a
  | .atanS1 a _ => domAtanS1 c a
  | .atanS2 a _ => domAtanS2 a
  | .atan a _ => domAtan a
  | .atan2 a b => domAtan2 a b
  | .exp2S1 a _ => domExp2S1 a
  | .exp2 a _ => domExp2 a
  | .exp a _ => domExp a
  | .log2S1 a _ => domLog2S1 a
  | .log2 a _ => domLog2 a
  | .log a _ => domLog a

/-- The operation's function applied to its operands, with no guard (R78). -/
def function (k : Ctx) : Instr → Word
  | .floor a _ => floorFn k a
  | .sinS1 a _ => sinS1Fn k a
  | .sinS2 a _ => sinS2Fn k a
  | .sinS3 a _ => sinS3Fn k a
  | .sin a _ => sinFn k a
  | .cos a _ => cosFn k a
  | .atanS1 a _ => atanS1Fn k a
  | .atanS2 a _ => atanS2Fn k a
  | .atan a _ => atanFn k a
  | .atan2 a b => atan2Fn k a b
  | .exp2S1 a _ => exp2S1Fn k a
  | .exp2 a _ => exp2Fn k a
  | .exp a _ => expFn k a
  | .log2S1 a _ => log2S1Fn k a
  | .log2 a _ => log2Fn k a
  | .log a _ => logFn k a

end Sys2Proof.Machine
end

