-- ==== Sys2Proof/Machine/System.lean ====
section
/-!
DEFINITION. Several units side by side (spec R22, R37, R140): each has its own state, all read the same
configuration, none shares state with another, and any one may take the next step.
-/

namespace Sys2Proof.Machine

open Sys2Proof

/-- Any number of units (R140); a unit is its place in the list and has no identifier register. -/
structure System where
  units : List State
  deriving DecidableEq, Repr

/-- Unit `k` takes one step and every other unit stays as it is (R140, R150 "A reset of one unit has no effect
on any other unit"); with no unit `k` nothing happens. -/
def System.stepUnit (k : Nat) (sys : System) : Host.Outcome System Fault Refusal :=
  match sys.units[k]? with
  | none => .next sys
  | some s =>
    match step s with
    | .next t => .next { units := sys.units.set k t }
    | .fault r => .fault r
    | .refused r => .refused r

/-- The units of one system read the same `Cfg` (R22) and draw their free values from streams of their own. -/
def System.shared (sys : System) : Bool :=
  sys.units.all (fun s => sys.units.all (fun t => s.cfg == t.cfg)) && decide (sys.units.map State.stream).Nodup

end Sys2Proof.Machine
end

