-- ==== Sys2Proof/Safety.lean ====
section
/-!
DEFINITION. The terms claims are stated in: rounding as a relation on exact numbers (spec R61), extended values
(R67), what a command may answer (R78, R71, R19), the machine's invariant, safe steps, and the named hypotheses a
claim may make about a configuration (R6, R120).
-/

namespace Sys2Proof

open Sys2Proof.Machine

/-- Rounding as R61 words it, for an exact `r` that is not zero: with `e = max(floor(log2 |r|), -1022)` and
`u = 2^(e - 52)`, `n` is the integer nearest to `|r| / u`, the even one at a tie, and `w` has the sign of `r` and
the magnitude `n * u`, or is the infinity of that sign when `n * u >= 2^1024`. -/
def RoundsTo (r : ℚ) (w : Word) : Prop :=
  let e : ℤ := max (Int.log 2 |r|) (-1022)
  let u : ℚ := (2 : ℚ) ^ (e - 52)
  ∃ n : ℕ, |(|r| / u - n)| ≤ 1 / 2 ∧ (|(|r| / u - n)| = 1 / 2 → n % 2 = 0) ∧
    if (2 : ℚ) ^ 1024 ≤ n * u then w = (if r < 0 then negInf else posInf)
    else isFinite w = true ∧ sign w = decide (r < 0) ∧ |value w| = n * u

/-- The extended real number of a pattern that is not a NaN (R67). -/
def extended (w : Word) : WithBot (WithTop ℚ) :=
  if isInf w then (if sign w then ⊥ else ((⊤ : WithTop ℚ) : WithBot (WithTop ℚ)))
  else ((value w : WithTop ℚ) : WithBot (WithTop ℚ))

/-- Equal but for the pattern of a NaN (R79, R71 b). -/
def sameUpToNaN (v w : Word) : Prop := v = w ∨ (isNaN v = true ∧ isNaN w = true)

/-- What a command may answer (R19, R78): inside the command domain the operation's function, with some NaN
pattern where an arithmetic NaN arises (R71 b); outside it any 64-bit value (`UNSPEC64`). -/
def Permitted (c : Cfg) (i : Instr) (v : Word) : Prop :=
  inDomain c i = true → ∃ nan, isNaN nan = true ∧ v = function { cfg := c, nan := nan } i

/-- The same for a command word: a reserved one has no answer (R44). -/
def PermittedWord (c : Cfg) (w : CmdWord) (v : Word) : Prop :=
  match decode w with
  | .instr i => Permitted c i v
  | .reserved _ => False

/-- What the unit's phase says about the command awaiting its response (R17, R20): none in IDLE, the very
fields in BUSY, a permitted result in DONE. -/
def phaseOk (s : State) : Prop :=
  match s.unit with
  | .idle => s.pending = none
  | .busy op a b => s.pending = some (CmdWord.make op a b)
  | .done res => ∃ c, s.pending = some c ∧ PermittedWord s.cfg c res

/-- The machine's invariant: the configuration is well formed (R5), one command at most is in flight and it is
the pending one (R17, R20), and every pair the host holds is a command with an answer it may have (R11, R20). -/
def Inv (s : State) : Prop :=
  s.cfg.wellFormed = true ∧ phaseOk s ∧ ∀ p ∈ s.record, PermittedWord s.cfg p.1 p.2

/-- The unit holds no reserved command (R44). -/
def Machine.State.admits (s : State) : Bool :=
  match s.unit with
  | .busy op a b => (CmdWord.make op a b).admitted
  | .idle | .done _ => true

/-- The host keeps its duty in this step (R22, R154 d). -/
def Machine.State.hostKeeps (s : State) : Bool :=
  match s.script with
  | [] => true
  | p :: _ => !s.breaksOffer p

/-- A safe step: no reserved command is held and no standing offer is changed, so the model gives the step a
meaning. -/
def Machine.State.safe (s : State) : Bool := s.admits && s.hostKeeps

/-- Hypothesis on a configuration: `SIN_C[0] > 0` (R85, R90). -/
def Cfg.sinLeadPositive (c : Cfg) : Bool := flt posZero c.sinC[0]
/-- Hypothesis on a configuration: `ATAN_C[0] > 0` (R95). -/
def Cfg.atanLeadPositive (c : Cfg) : Bool := flt posZero c.atanC[0]
/-- Hypothesis on a configuration: `EXP2_Q[0]` is finite and not zero (R110). -/
def Cfg.exp2DenNonzero (c : Cfg) : Bool := isFinite c.exp2Q[0] && !isZero c.exp2Q[0]

/-- LOG_ONE_EXACT (R120): at `x = 1.0` the numerator `P` of LOG2_S1 is a zero, "the rounded sum of the four
numerator coefficients in Horner order", and the denominator is neither a zero nor a NaN, so that the quotient
is a zero. -/
def Cfg.logOneExact (c : Cfg) (nan : Word) : Bool :=
  isZero (horner nan c.log2P.toList f1)
    && !isZero (horner nan c.log2Q.toList f1) && !isNaN (horner nan c.log2Q.toList f1)

/-- The exact polynomial `T[0] + T[1] y + ...` of a table of exact numbers (R72). -/
def polyEval {K : Type} [Field K] (t : List K) (y : K) : K := t.foldr (fun c p => p * y + c) 0

/-- Accuracy hypothesis (R6, never a rule): sine Stage1 has 16.47 significant decimal digits on [0, 1]. -/
def Cfg.SinAccurate (c : Cfg) : Prop :=
  ∀ x : ℝ, 0 ≤ x → x ≤ 1 →
    |x * polyEval (c.sinC.toList.map fun w => ((value w : ℚ) : ℝ)) (x * x) - Real.sin (Real.pi / 6 * x)|
      ≤ (10 : ℝ) ^ (-16.47 : ℝ) * |Real.sin (Real.pi / 6 * x)|

/-- Accuracy hypothesis (R6): arctangent Stage1 has 16.52 digits on [0, tan(π/32)]. -/
def Cfg.AtanAccurate (c : Cfg) : Prop :=
  ∀ x : ℝ, 0 ≤ x → x ≤ Real.tan (Real.pi / 32) →
    |x * polyEval (c.atanC.toList.map fun w => ((value w : ℚ) : ℝ)) (x * x) - Real.arctan x|
      ≤ (10 : ℝ) ^ (-16.52 : ℝ) * |Real.arctan x|

/-- Accuracy hypothesis (R6): Exp2Stage1 has 18.08 digits on [-0.5, 0.5]. -/
def Cfg.Exp2Accurate (c : Cfg) : Prop :=
  ∀ x : ℝ, -(1 / 2) ≤ x → x ≤ 1 / 2 →
    let p := polyEval (c.exp2P.toList.map fun w => ((value w : ℚ) : ℝ)) (x * x) * x
    let q := polyEval (c.exp2Q.toList.map fun w => ((value w : ℚ) : ℝ)) (x * x)
    |(q + p) / (q - p) - (2 : ℝ) ^ x| ≤ (10 : ℝ) ^ (-18.08 : ℝ) * (2 : ℝ) ^ x

/-- Accuracy hypothesis (R6): Log2Stage1 has 8.32 digits on [1, 2] (90 C4). -/
def Cfg.Log2Accurate (c : Cfg) : Prop :=
  ∀ x : ℝ, 1 ≤ x → x ≤ 2 →
    |polyEval (c.log2P.toList.map fun w => ((value w : ℚ) : ℝ)) x
        / polyEval (c.log2Q.toList.map fun w => ((value w : ℚ) : ℝ)) x - Real.logb 2 x|
      ≤ (10 : ℝ) ^ (-8.32 : ℝ) * |Real.logb 2 x|

end Sys2Proof
end

