-- ==== Sys2Proof/Certificates/Slice0/Obligations.lean ====
section
/-!
DEFINITION. The statements for the provers, from the numbered rules of spec/. A free value (`UNSPEC64`, an
arithmetic NaN's pattern) occurs in them only as `s.unspec` and `s.ctx.nan`: nothing is said of its bits. A
statement about all states is a statement about all configurations, which the state carries.
-/

open Sys2Proof Sys2Proof.Machine

/-! ### Encoding -/

/-- R40, R42, R49: encoding and decoding agree for every instruction, with every operand at every value. -/
def Obligations.DecodeInvertsEncode : Prop :=
  ∀ i : Instr, i.wellFormed = true → decode (encode i) = .instr i

/-- R49 (with R44, R45): the word decodes to the row whose `op` is its `op` field when `op[7:4]` is zero, with both
operands taken whole, and to RESERVED otherwise. -/
def Obligations.DecodingIsTotalOnTheOpField : Prop :=
  ∀ c : CmdWord,
    (c.extractLsb' 132 4 = 0#4 → ∃ i, decode c = .instr i ∧ opcode i = c.extractLsb' 128 8 ∧ encode i = c) ∧
    (c.extractLsb' 132 4 ≠ 0#4 → decode c = .reserved (c.extractLsb' 128 8))

/-- R40, R42: the sixteen rows of the operation code map, each for every `a` and `b`; and a few command words written
out from the encoding (spec 95 section 8), two reserved ones among them. -/
def Obligations.SampleWordsDecode : Prop :=
  (∀ a b : Word,
    decode (0x00#8 ++ a ++ b) = .instr (.floor a b) ∧
    decode (0x01#8 ++ a ++ b) = .instr (.sinS1 a b) ∧
    decode (0x02#8 ++ a ++ b) = .instr (.sinS2 a b) ∧
    decode (0x03#8 ++ a ++ b) = .instr (.sinS3 a b) ∧
    decode (0x04#8 ++ a ++ b) = .instr (.sin a b) ∧
    decode (0x05#8 ++ a ++ b) = .instr (.cos a b) ∧
    decode (0x06#8 ++ a ++ b) = .instr (.atanS1 a b) ∧
    decode (0x07#8 ++ a ++ b) = .instr (.atanS2 a b) ∧
    decode (0x08#8 ++ a ++ b) = .instr (.atan a b) ∧
    decode (0x09#8 ++ a ++ b) = .instr (.atan2 a b) ∧
    decode (0x0A#8 ++ a ++ b) = .instr (.exp2S1 a b) ∧
    decode (0x0B#8 ++ a ++ b) = .instr (.exp2 a b) ∧
    decode (0x0C#8 ++ a ++ b) = .instr (.exp a b) ∧
    decode (0x0D#8 ++ a ++ b) = .instr (.log2S1 a b) ∧
    decode (0x0E#8 ++ a ++ b) = .instr (.log2 a b) ∧
    decode (0x0F#8 ++ a ++ b) = .instr (.log a b)) ∧
  decode 0x00C0040000000000000000000000000000#136 = .instr (.floor 0xC004000000000000#64 0#64) ∧
  decode 0x093FF0000000000000BFF0000000000000#136 = .instr (.atan2 0x3FF0000000000000#64 0xBFF0000000000000#64) ∧
  decode 0x043FF0000000000000DEADBEEF00000001#136 = .instr (.sin 0x3FF0000000000000#64 0xDEADBEEF00000001#64) ∧
  decode 0x0C40863000000000000000000000000000#136 = .instr (.exp 0x4086300000000000#64 0#64) ∧
  decode 0x0E40200000000000000000000000000000#136 = .instr (.log2 0x4020000000000000#64 0#64) ∧
  decode 0x103FF00000000000000000000000000000#136 = .reserved 0x10#8 ∧
  decode 0xFF00000000000000000000000000000000#136 = .reserved 0xFF#8

/-- R47, R43, R42: a line of a row's mnemonic assembles to that row's instruction with the operands in order, with zero
in a `b` that is not used; and what an operand's bits are: a pattern itself, a literal the nearest binary64 value, a
name what an earlier line bound, the newest of two bindings (the model's choice, log entry 21). -/
def Obligations.AssemblerWritesZeroInUnusedB : Prop :=
  (∀ (env : AsmEnv) (l : AsmLine) (i : Instr), assemble env l = some i → i.assembled = true) ∧
  (∀ (env : AsmEnv) (l : AsmLine) (o : AsmOperand) (a : Word),
    l.operands = [o] → o.bits env = some a →
      (l.mnemonic = ['F', 'L', 'O', 'O', 'R'] → assemble env l = some (.floor a 0#64)) ∧
      (l.mnemonic = ['S', 'I', 'N', '_', 'S', '1'] → assemble env l = some (.sinS1 a 0#64)) ∧
      (l.mnemonic = ['S', 'I', 'N', '_', 'S', '2'] → assemble env l = some (.sinS2 a 0#64)) ∧
      (l.mnemonic = ['S', 'I', 'N', '_', 'S', '3'] → assemble env l = some (.sinS3 a 0#64)) ∧
      (l.mnemonic = ['S', 'I', 'N'] → assemble env l = some (.sin a 0#64)) ∧
      (l.mnemonic = ['C', 'O', 'S'] → assemble env l = some (.cos a 0#64)) ∧
      (l.mnemonic = ['A', 'T', 'A', 'N', '_', 'S', '1'] → assemble env l = some (.atanS1 a 0#64)) ∧
      (l.mnemonic = ['A', 'T', 'A', 'N', '_', 'S', '2'] → assemble env l = some (.atanS2 a 0#64)) ∧
      (l.mnemonic = ['A', 'T', 'A', 'N'] → assemble env l = some (.atan a 0#64)) ∧
      (l.mnemonic = ['E', 'X', 'P', '2', '_', 'S', '1'] → assemble env l = some (.exp2S1 a 0#64)) ∧
      (l.mnemonic = ['E', 'X', 'P', '2'] → assemble env l = some (.exp2 a 0#64)) ∧
      (l.mnemonic = ['E', 'X', 'P'] → assemble env l = some (.exp a 0#64)) ∧
      (l.mnemonic = ['L', 'O', 'G', '2', '_', 'S', '1'] → assemble env l = some (.log2S1 a 0#64)) ∧
      (l.mnemonic = ['L', 'O', 'G', '2'] → assemble env l = some (.log2 a 0#64)) ∧
      (l.mnemonic = ['L', 'O', 'G'] → assemble env l = some (.log a 0#64))) ∧
  (∀ (env : AsmEnv) (l : AsmLine) (o q : AsmOperand) (y x : Word),
    l.operands = [o, q] → o.bits env = some y → q.bits env = some x →
      l.mnemonic = ['A', 'T', 'A', 'N', '2'] → assemble env l = some (.atan2 y x)) ∧
  (∀ (env : AsmEnv) (w : Word) (neg : Bool) (p q : Nat) (n : List Char),
    (AsmOperand.pattern w).bits env = some w ∧
    (AsmOperand.infinity neg).bits env = some (if neg then 0xFFF0000000000000#64 else 0x7FF0000000000000#64) ∧
    (AsmOperand.name n).bits env = env.lookup n ∧
    (0 < p → 0 < q → ∃ v, (AsmOperand.number neg p q).bits env = some v ∧
      RoundsTo ((if neg then -1 else 1) * ((p : ℚ) / q)) v))

/-! ### The machine's steps -/

/-- R19: in BUSY, with reset not asserted and the host keeping its offer (R22), a step is `exec` of the decoded
instruction, and then the ports take the host's next levels and its script moves on. -/
def Obligations.StepRunsDecodedInstruction : Prop :=
  ∀ (s : State) (op : OpCode) (a b : Word) (i : Instr),
    s.unit = .busy op a b → decodeFields op a b = .instr i → s.pins.rst = false → s.hostKeeps = true →
    ∃ t, exec i s = .next t ∧
      step s = .next { t with pins := s.script.head?.getD s.pins, script := s.script.tail }

/-- R18, R19 and log entry 12: the state that stands for a command just accepted computes exactly that command in
its very next step. -/
def Obligations.PlacedCommandRunsNext : Prop :=
  ∀ (s : State) (nbits w : Nat) (i : Instr), decodeTableWord nbits w = some i →
    ∃ t, exec i (s.withFetchWord nbits w) = .next t ∧
      step (s.withFetchWord nbits w) = .next { t with
        pins := s.script.head?.getD { s.pins with rst := false, cmdValid := false }
        script := s.script.tail }

/-- R18: accept is enabled in IDLE without reset when a command is offered, and takes the word whole; nothing else
puts a command into the unit, so a unit that is not IDLE accepts nothing. -/
def Obligations.AcceptTakesTheWholeWord : Prop :=
  (∀ s : State, s.unit = .idle → s.pins.rst = false → s.pins.cmdValid = true →
    ∃ t, step s = .next t ∧ t.unit =
      .busy (s.pins.cmd.extractLsb' 128 8) (s.pins.cmd.extractLsb' 64 64) (s.pins.cmd.extractLsb' 0 64)) ∧
  (∀ (s t : State) (op : OpCode) (a b : Word), step s = .next t → t.unit = .busy op a b →
    s.unit = .idle ∧ s.pins.rst = false ∧ s.pins.cmdValid = true ∧
      op = s.pins.cmd.extractLsb' 128 8 ∧ a = s.pins.cmd.extractLsb' 64 64 ∧ b = s.pins.cmd.extractLsb' 0 64)

/-- R18, with the model's host (log entries 6 and 8): an accept step writes the unit, the awaited command and the draw
counter, the ports take the host's next levels, and nothing else changes. -/
def Obligations.AcceptedCommandIsAwaited : Prop :=
  ∀ s : State, s.unit = .idle → s.pins.rst = false → s.pins.cmdValid = true →
    step s = .next { s with
      unit := .busy s.pins.cmd.op s.pins.cmd.opA s.pins.cmd.opB
      pending := some s.pins.cmd
      draws := s.draws + 1
      pins := s.script.head?.getD s.pins
      script := s.script.tail }

/-- R20 and R22: deliver hands the result to the host, which records it with its command, and the unit is IDLE. -/
def Obligations.DeliverHandsOverTheResult : Prop :=
  ∀ (s : State) (res : Word) (c : CmdWord),
    s.unit = .done res → s.pending = some c → s.pins.rst = false → s.pins.rspReady = true → s.hostKeeps = true →
    step s = .next { s with
      unit := .idle
      pending := none
      record := s.record ++ [(c, res)]
      draws := s.draws + 1
      pins := s.script.head?.getD s.pins
      script := s.script.tail }

/-- R22, R20 and 93 U7: while the host does not take the response, the unit stays in DONE with it. -/
def Obligations.UntakenResponseStays : Prop :=
  ∀ (s : State) (res : Word), s.unit = .done res → s.pins.rst = false → s.pins.rspReady = false → s.hostKeeps = true →
    ∃ t, step s = .next t ∧ t.unit = .done res ∧ t.pending = s.pending ∧ t.record = s.record

/-- R150, R133 (c): with reset asserted the one step is reset: the unit is IDLE, the command in flight is dropped
with no response, the tables are as before. Of a held reserved command the spec says "refused for good" (R44), and the
model follows that (log entry 10): such a state is no case of this statement. -/
def Obligations.ResetDropsTheCommand : Prop :=
  ∀ s : State, s.pins.rst = true → s.hostKeeps = true →
    (∀ (op : OpCode) (a b : Word), s.unit = .busy op a b → op.extractLsb' 4 4 = 0#4) →
    step s = .next { s with
      unit := .idle
      pending := none
      draws := s.draws + 1
      pins := s.script.head?.getD s.pins
      script := s.script.tail }

/-- R44, R19: a unit that holds a command with a reserved code is refused for good: it has no step at all, whatever its
ports carry, reset among them (log entry 10). -/
def Obligations.ReservedCommandIsRefused : Prop :=
  ∀ (s : State) (op : OpCode) (a b : Word),
    s.unit = .busy op a b → op.extractLsb' 4 4 ≠ 0#4 → step s = .refused (.reservedOp op)

/-- 93 U7, R154 (d): a host that changes `cmd` under `cmd_valid` before acceptance is outside the model. That a change
while `rst` is asserted is one too is the model's reading (log entry 18). -/
def Obligations.ChangedOfferIsRefused : Prop :=
  ∀ (s : State) (p : Pins) (ps : List Pins),
    s.pins.cmdValid = true → (s.pins.rst = true ∨ s.unit ≠ .idle) →
    s.script = p :: ps → p.cmdValid = true → p.cmd ≠ s.pins.cmd →
    ∃ r, step s = .refused r

/-- R130, R156: a step has a next state exactly when the unit holds no reserved command and the host does not change a
standing offer; there is no other stop, and no fault. It rests on the model's choices of log entries 9 (a step in which
nothing is enabled), 10 (a held reserved command) and 18 (an offer changed under reset). An offered reserved word stops
nothing until it is held. -/
def Obligations.SafeStepsAndOnlyTheyAnswer : Prop :=
  ∀ s : State, s.safe = true ↔ ∃ t, step s = .next t

/-- R16: `cmd_ready` exactly in IDLE, `rsp_valid` exactly in DONE, and in DONE `rsp` is the result. -/
def Obligations.OutputPortsShowThePhase : Prop :=
  ∀ s : State,
    (s.cmdReady = true ↔ s.unit = .idle) ∧
    (s.rspValid = true ↔ ∃ res, s.unit = .done res) ∧
    (∀ res, s.unit = .done res → s.rsp = res)

/-- R130, R19, R20, R156: a call of an admitted command on an IDLE unit (accept, compute, deliver) ends in exactly
one response, which is one the command may have, and the unit is IDLE again. R47: so does a line that assembles, its
response bound to its name; that a line is issued at an IDLE unit with no offer standing is the model's choice
(log entry 20), and so is that the new binding hides an older one of the same name (log entry 21). -/
def Obligations.CallDeliversExactlyOneResponse : Prop :=
  (∀ (s : State) (c : CmdWord) (i : Instr), s.unit = .idle → decode c = .instr i →
    ∃ (t : State) (v : Word), call s c = .next t ∧ t.unit = .idle ∧ t.pending = none ∧
      t.record = s.record ++ [(c, v)] ∧ t.cfg = s.cfg ∧ Permitted s.cfg i v) ∧
  (∀ (env : AsmEnv) (s : State) (l : AsmLine) (i : Instr),
    s.unit = .idle → s.pins.cmdValid = false → assemble env l = some i →
    ∃ (t : State) (v : Word), runLine env s l = some (l.bindTo v env, t) ∧ t.canIssue = true ∧ t.pending = none ∧
      t.record = s.record ++ [(encode i, v)] ∧ t.cfg = s.cfg ∧ Permitted s.cfg i v)

/-! ### Invariants and whole-machine rules -/

/-- R5, R11, R17, R20: every step keeps the invariant. -/
def Obligations.StepKeepsInvariant : Prop :=
  ∀ s t : State, Inv s → step s = .next t → Inv t

/-- R24, R151: right after reset the invariant holds, the unit is ready, offers no response and owes none. -/
def Obligations.ResetMeetsInvariant : Prop :=
  Inv State.reset ∧ State.reset.cmdReady = true ∧ State.reset.rspValid = false ∧ State.reset.pending = none

/-- R10, R13, R14, R25, R26: what an instruction leaves unchanged. It writes its result and nothing else: every
table, port, record and the awaited command is as before, and one draw is used up. -/
def Obligations.ExecChangesOnlyTheResult : Prop :=
  ∀ (i : Instr) (s t : State), exec i s = .next t →
    t.cfg = s.cfg ∧ t.pins = s.pins ∧ t.script = s.script ∧ t.pending = s.pending ∧ t.record = s.record ∧
      t.stream = s.stream ∧ t.draws = s.draws + 1 ∧ ∃ v, t.unit = .done v

/-- R26, R21: no step writes a table. -/
def Obligations.NoStepWritesATable : Prop :=
  ∀ s t : State, step s = .next t → t.cfg = s.cfg

/-- The model's free values (log entry 4): each step moves on in its stream, so no draw is used twice. -/
def Obligations.EveryStepDrawsAfresh : Prop :=
  ∀ s t : State, step s = .next t → t.stream = s.stream ∧ s.draws < t.draws

/-- R19, R78: every command completes, whatever the state; inside its domain with the operation's function, outside
it with `UNSPEC64`. -/
def Obligations.EveryCommandCompletes : Prop :=
  ∀ (i : Instr) (s : State),
    (inDomain s.cfg i = true → exec i s = .next (s.respond (function s.ctx i))) ∧
    (inDomain s.cfg i = false → exec i s = .next (s.respond s.unspec))

/-- R11, R79: equal commands under one configuration answer alike, whatever the rest of the state, but for the
pattern of an arithmetic NaN. -/
def Obligations.EqualCommandsAnswerAlike : Prop :=
  ∀ (i : Instr) (s t : State), s.cfg = t.cfg → inDomain s.cfg i = true →
    ∃ v w, exec i s = .next (s.respond v) ∧ exec i t = .next (t.respond w) ∧ sameUpToNaN v w

/-- R43: in the fifteen one-operand operations (every code but 0x09) any `b` gives the same result; ATAN2 reads `y`
from `a` and `x` from `b`. Both commands run from one state and so with one draw (log entry 4). -/
def Obligations.UnusedOperandIsIgnored : Prop :=
  (∀ (c d : CmdWord) (i j : Instr) (s : State),
    c.op = d.op → c.opA = d.opA → c.op ≠ 0x09#8 → decode c = .instr i → decode d = .instr j → exec i s = exec j s) ∧
  (∀ (y x : Word) (s : State), isFinite y = true → isFinite x = true →
    exec (.atan2 y x) s = .next (s.respond (atan2Fn s.ctx y x)))

/-- R22, R32, R37: the steps of different units commute, and neither touches the other. -/
def Obligations.StepsOfDifferentUnitsCommute : Prop :=
  ∀ (j k : Nat) (sys u v : System), j ≠ k → sys.stepUnit j = .next u → u.stepUnit k = .next v →
    ∃ w, sys.stepUnit k = .next w ∧ w.stepUnit j = .next v ∧ u.units[k]? = sys.units[k]? ∧ w.units[j]? = sys.units[j]?

/-! ### The number format and the primitives -/

/-- R55, R57: the value and the class of every pattern. -/
def Obligations.PatternValues : Prop :=
  ∀ w : Word,
    let s : ℚ := if sign w then -1 else 1
    let e := (expfield w).toNat
    let m := (mant w).toNat
    (e = 0 → value w = s * m * (2 : ℚ) ^ (-1074 : ℤ)) ∧
    (1 ≤ e → e ≤ 2046 → value w = s * (2 ^ 52 + m) * (2 : ℚ) ^ ((e : ℤ) - 1075)) ∧
    (isFinite w = true ↔ e ≠ 2047) ∧ (isSubnormal w = true ↔ e = 0 ∧ m ≠ 0) ∧
    (isInf w = true ↔ e = 2047 ∧ m = 0) ∧ (isNaN w = true ↔ e = 2047 ∧ m ≠ 0) ∧
    (isZero w = true ↔ w = posZero ∨ w = negZero) ∧
    (isQuietNaN w = true ↔ isNaN w = true ∧ 2 ^ 51 ≤ m)

/-- R60, R111: the two recomposers. -/
def Obligations.RecomposersBuildPowerAndMantissa : Prop :=
  (∀ k : ℤ, -1022 ≤ k → k ≤ 1023 →
    ((pow2i k).toNat : ℤ) = (k + 1023) * 2 ^ 52 ∧ value (pow2i k) = (2 : ℚ) ^ k ∧ isFinite (pow2i k) = true) ∧
  (∀ b : Word, normmant b = (b &&& 0x000FFFFFFFFFFFFF#64) ||| 0x3FF0000000000000#64 ∧
    sign (normmant b) = false ∧ isFinite (normmant b) = true ∧
    value (normmant b) = 1 + ((mant b).toNat : ℚ) / 2 ^ 52 ∧ 1 ≤ value (normmant b) ∧ value (normmant b) < 2)

/-- R61: the rounding of every exact number that is not zero, of either sign. -/
def Obligations.RoundingIsToNearestEven : Prop :=
  ∀ (neg : Bool) (p q : Nat), 0 < p → 0 < q →
    RoundsTo ((if neg then -1 else 1) * ((p : ℚ) / q) / 2 ^ 1074) (fround neg p q)

/-- R61: a finite value that is already representable is its own rounding. -/
def Obligations.RepresentableValuesRoundToThemselves : Prop :=
  ∀ w : Word, isFinite w = true → isZero w = false → RoundsTo (value w) w

/-- R62: `fadd`. -/
def Obligations.AdditionIsTheRoundedSum : Prop :=
  ∀ nan x y : Word,
    (isNaN x = true ∨ isNaN y = true → fadd nan x y = nan) ∧
    (isInf x = true → isInf y = true → sign x ≠ sign y → fadd nan x y = nan) ∧
    (isInf x = true → isInf y = true → sign x = sign y → fadd nan x y = x ∧ x = y) ∧
    (isInf x = true → isFinite y = true → fadd nan x y = x) ∧
    (isFinite x = true → isInf y = true → fadd nan x y = y) ∧
    (isZero x = true → isZero y = true → sign x = sign y → fadd nan x y = x ∧ x = y) ∧
    (isZero x = true → isZero y = true → sign x ≠ sign y → fadd nan x y = posZero) ∧
    (isFinite x = true → isFinite y = true → isZero x = false → value x + value y = 0 → fadd nan x y = posZero) ∧
    (isFinite x = true → isFinite y = true → value x + value y ≠ 0 → RoundsTo (value x + value y) (fadd nan x y))

/-- R63: `fsub`. -/
def Obligations.SubtractionAddsTheNegation : Prop :=
  (∀ nan x y : Word, fsub nan x y = fadd nan x (fneg y)) ∧
  (∀ nan x : Word, isFinite x = true → fsub nan x x = posZero) ∧
  (∀ nan : Word, fsub nan negZero posZero = negZero) ∧
  (∀ nan x y : Word, isFinite x = true → isFinite y = true → value x ≠ value y →
    RoundsTo (value x - value y) (fsub nan x y))

/-- R64: `fmul`. -/
def Obligations.ProductIsTheRoundedProduct : Prop :=
  ∀ nan x y : Word,
    (isNaN x = true ∨ isNaN y = true → fmul nan x y = nan) ∧
    (isZero x = true → isInf y = true → fmul nan x y = nan) ∧
    (isInf x = true → isZero y = true → fmul nan x y = nan) ∧
    (isInf x = true ∨ isInf y = true → isNaN x = false → isNaN y = false → isZero x = false → isZero y = false →
      fmul nan x y = if sign x ^^ sign y then negInf else posInf) ∧
    (isZero x = true ∨ isZero y = true → isFinite x = true → isFinite y = true →
      fmul nan x y = if sign x ^^ sign y then negZero else posZero) ∧
    (isFinite x = true → isFinite y = true → isZero x = false → isZero y = false →
      RoundsTo (value x * value y) (fmul nan x y) ∧ sign (fmul nan x y) = (sign x ^^ sign y))

/-- R65: `fdiv`. -/
def Obligations.QuotientIsTheRoundedQuotient : Prop :=
  ∀ nan x y : Word,
    (isNaN x = true ∨ isNaN y = true → fdiv nan x y = nan) ∧
    (isZero x = true → isZero y = true → fdiv nan x y = nan) ∧
    (isInf x = true → isInf y = true → fdiv nan x y = nan) ∧
    (isInf x = true → isFinite y = true → fdiv nan x y = if sign x ^^ sign y then negInf else posInf) ∧
    (isFinite x = true → isZero x = false → isZero y = true →
      fdiv nan x y = if sign x ^^ sign y then negInf else posInf) ∧
    (isZero x = true → isNaN y = false → isZero y = false →
      fdiv nan x y = if sign x ^^ sign y then negZero else posZero) ∧
    (isFinite x = true → isInf y = true → fdiv nan x y = if sign x ^^ sign y then negZero else posZero) ∧
    (isFinite x = true → isFinite y = true → isZero x = false → isZero y = false →
      RoundsTo (value x / value y) (fdiv nan x y) ∧ sign (fdiv nan x y) = (sign x ^^ sign y))

/-- R66: `fneg` inverts bit 63 of every pattern and nothing else, and so negates the value. -/
def Obligations.NegationInvertsTheSignBit : Prop :=
  ∀ x : Word, sign (fneg x) = !sign x ∧ (∀ i, i < 63 → (fneg x).getLsbD i = x.getLsbD i) ∧ value (fneg x) = -value x

/-- R67: the four comparisons compare extended reals, and all are false when an operand is a NaN. -/
def Obligations.ComparisonsAreOfExtendedReals : Prop :=
  ∀ x y : Word,
    (isNaN x = true ∨ isNaN y = true →
      flt x y = false ∧ fle x y = false ∧ fgt x y = false ∧ feq x y = false) ∧
    (isNaN x = false → isNaN y = false →
      (flt x y = true ↔ extended x < extended y) ∧ (fle x y = true ↔ extended x ≤ extended y) ∧
      (fgt x y = true ↔ extended y < extended x) ∧ (feq x y = true ↔ extended x = extended y))

/-- R68: `ftrunc`. -/
def Obligations.TruncationIsExact : Prop :=
  ∀ nan x : Word,
    (isNaN x = true → ftrunc nan x = nan) ∧
    (isInf x = true ∨ isZero x = true → ftrunc nan x = x) ∧
    (isFinite x = true → isZero x = false →
      isFinite (ftrunc nan x) = true ∧ sign (ftrunc nan x) = sign x ∧
      value (ftrunc nan x) = (if sign x then -1 else 1) * (⌊|value x|⌋ : ℚ))

/-- R69, R70: the exact conversions between small integers and binary64. -/
def Obligations.SmallIntegersConvertExactly : Prop :=
  (∀ n : ℤ, |n| ≤ 2 ^ 53 → isFinite (i2f n) = true ∧ value (i2f n) = n) ∧ i2f 0 = posZero ∧
  (∀ (x : Word) (n : ℤ), isFinite x = true → value x = n → |n| ≤ 2 ^ 53 → f2i x = n)

/-- R72: `horner` starts from the highest entry and takes one multiplication and one addition a step, downwards. -/
def Obligations.HornerRunsFromTheHighestEntry : Prop :=
  ∀ (nan y c : Word) (cs : List Word),
    horner nan (cs ++ [c]) y = cs.foldr (fun t p => fadd nan (fmul nan p y) t) c

/-- R76: each of the seven constants is the binary64 value nearest the real number it is named for; R8: each literal of
the pseudocode has its decimal value. -/
def Obligations.PiAndRootConstantsAreNearest : Prop :=
  (∀ w : Word, isFinite w = true →
    |(((value pi : ℚ) : ℝ)) - Real.pi| ≤ |(((value w : ℚ) : ℝ)) - Real.pi| ∧
    |(((value twoPi : ℚ) : ℝ)) - 2 * Real.pi| ≤ |(((value w : ℚ) : ℝ)) - 2 * Real.pi| ∧
    |(((value halfPi : ℚ) : ℝ)) - Real.pi / 2| ≤ |(((value w : ℚ) : ℝ)) - Real.pi / 2| ∧
    |(((value pi32 : ℚ) : ℝ)) - Real.pi / 32| ≤ |(((value w : ℚ) : ℝ)) - Real.pi / 32| ∧
    |(((value sqrt2 : ℚ) : ℝ)) - Real.sqrt 2| ≤ |(((value w : ℚ) : ℝ)) - Real.sqrt 2| ∧
    |(((value log2e : ℚ) : ℝ)) - Real.logb 2 (Real.exp 1)| ≤
      |(((value w : ℚ) : ℝ)) - Real.logb 2 (Real.exp 1)| ∧
    |(((value ln2 : ℚ) : ℝ)) - Real.log 2| ≤ |(((value w : ℚ) : ℝ)) - Real.log 2|) ∧
  (value f0_25 = 1 / 4 ∧ value f0_5 = 1 / 2 ∧ value fm0_5 = -1 / 2 ∧ value f0_75 = 3 / 4 ∧ value f1 = 1 ∧
    value f2 = 2 ∧ value f3 = 3 ∧ value f4 = 4 ∧ value fm1022 = -1022 ∧ value f1023 = 1023)

/-! ### FLOOR -/

/-- R75: "For every finite `x` the result is the mathematical floor of `x`, exactly", with the sign of `x` (so that a
zero result has it too); the zeros and the infinities are their own floor; a NaN gives a NaN as a
function and `UNSPEC64` as a command. -/
def Obligations.FloorIsTheMathematicalFloor : Prop :=
  ∀ (s : State) (a b : Word),
    (isFinite a = true → ∃ v, exec (.floor a b) s = .next (s.respond v) ∧ isFinite v = true ∧
      value v = (⌊value a⌋ : ℚ) ∧ sign v = sign a ∧ (isZero a = true → v = a)) ∧
    (isInf a = true → exec (.floor a b) s = .next (s.respond a)) ∧
    (isNaN a = true → isNaN (floorFn s.ctx a) = true ∧ exec (.floor a b) s = .next (s.respond s.unspec))

/-! ### Sine and cosine -/

/-- R85: SIN_S1 on its domain, its seven multiplications and five additions written out; a zero gives itself when
`SIN_C[0] > 0` in a well-formed configuration. -/
def Obligations.SinStageOneEvaluates : Prop :=
  ∀ (s : State) (a b : Word), domSinS1 a = true →
    let n := s.ctx.nan
    let y := fmul n a a
    let step := fun (p c : Word) => fadd n (fmul n p y) c
    let p := step (step (step (step (step s.cfg.sinC[5] s.cfg.sinC[4]) s.cfg.sinC[3]) s.cfg.sinC[2]) s.cfg.sinC[1])
      s.cfg.sinC[0]
    exec (.sinS1 a b) s = .next (s.respond (fmul n p a)) ∧
    (isZero a = true → s.cfg.wellFormed = true → s.cfg.sinLeadPositive = true →
      exec (.sinS1 a b) s = .next (s.respond a))

/-- R86: SIN_S2 on its domain is the triple-angle form over the SIN_S1 command at exactly `4 a`, which lies in the
domain of SIN_S1. Both commands run from one state, so with one draw of an arithmetic NaN (log entry 5). -/
def Obligations.SinStageTwoTriplesTheAngle : Prop :=
  ∀ (s : State) (a b : Word), domSinS2 a = true →
    let n := s.ctx.nan
    let q := fmul n 0x4010000000000000#64 a
    value q = 4 * value a ∧ domSinS1 q = true ∧
    ∃ v, exec (.sinS1 q b) s = .next (s.respond v) ∧
      exec (.sinS2 a b) s = .next (s.respond
        (fmul n v (fsub n 0x4008000000000000#64 (fmul n 0x4010000000000000#64 (fmul n v v)))))

/-- R87: SIN_S3 folds its argument: four branches, each with the exactly mirrored argument, which lies in the domain
of SIN_S2, and with the sign of the half period. Both commands run from one state, so with one draw of an
arithmetic NaN (log entry 5). -/
def Obligations.SinStageThreeFoldsTheQuadrants : Prop :=
  ∀ (s : State) (a b : Word), domSinS3 a = true →
    let n := s.ctx.nan
    ∃ m v, domSinS2 m = true ∧ exec (.sinS2 m b) s = .next (s.respond v) ∧
      (value a < 1 / 4 → m = a ∧ exec (.sinS3 a b) s = .next (s.respond v)) ∧
      (1 / 4 ≤ value a → value a < 1 / 2 → m = fsub n 0x3FE0000000000000#64 a ∧ value m = 1 / 2 - value a ∧
        exec (.sinS3 a b) s = .next (s.respond v)) ∧
      (1 / 2 ≤ value a → value a < 3 / 4 → m = fsub n a 0x3FE0000000000000#64 ∧ value m = value a - 1 / 2 ∧
        exec (.sinS3 a b) s = .next (s.respond (fneg v))) ∧
      (3 / 4 ≤ value a → m = fsub n 0x3FF0000000000000#64 a ∧ value m = 1 - value a ∧
        exec (.sinS3 a b) s = .next (s.respond (fneg v)))

/-- R88: SIN of a finite operand is the SIN_S3 command of the phase `t - FLOOR(t)`, `t = a / TWO_PI`, and the phase
lies in the closed interval [0, 1]. All commands run from one state, so with one draw of an arithmetic NaN
(log entry 5). -/
def Obligations.SinReducesToThePhase : Prop :=
  ∀ (s : State) (a b : Word), isFinite a = true →
    let n := s.ctx.nan
    let t := fdiv n a 0x401921FB54442D18#64
    ∃ f v, exec (.floor t b) s = .next (s.respond f) ∧ isFinite t = true ∧ domSinS3 (fsub n t f) = true ∧
      exec (.sinS3 (fsub n t f) b) s = .next (s.respond v) ∧ exec (.sin a b) s = .next (s.respond v)

/-- R89: COS of a finite operand, the same with a quarter period added after the division and before FLOOR, and from one
state too (log entry 5). -/
def Obligations.CosReducesToTheShiftedPhase : Prop :=
  ∀ (s : State) (a b : Word), isFinite a = true →
    let n := s.ctx.nan
    let t := fadd n (fdiv n a 0x401921FB54442D18#64) 0x3FD0000000000000#64
    ∃ f v, exec (.floor t b) s = .next (s.respond f) ∧ isFinite t = true ∧ domSinS3 (fsub n t f) = true ∧
      exec (.sinS3 (fsub n t f) b) s = .next (s.respond v) ∧ exec (.cos a b) s = .next (s.respond v)

/-- R88 (ii) and (iii), R89, R90: for every well-formed table with `SIN_C[0] > 0`, the sine of either zero is `+0.0`
and the cosine of `HALF_PI` is `-0.0`. -/
def Obligations.SinOfZeroAndCosOfHalfPi : Prop :=
  ∀ (s : State) (b : Word), s.cfg.wellFormed = true → s.cfg.sinLeadPositive = true →
    exec (.sin posZero b) s = .next (s.respond posZero) ∧
    exec (.sin negZero b) s = .next (s.respond posZero) ∧
    exec (.cos 0x3FF921FB54442D18#64 b) s = .next (s.respond negZero)

/-! ### Arctangent -/

/-- R95: ATAN_S1 on its domain, written out; a zero gives itself when `ATAN_C[0] > 0` in a well-formed
configuration. -/
def Obligations.AtanStageOneEvaluates : Prop :=
  ∀ (s : State) (a b : Word), domAtanS1 s.cfg a = true →
    let n := s.ctx.nan
    let y := fmul n a a
    let step := fun (p c : Word) => fadd n (fmul n p y) c
    let p := step (step (step (step (step s.cfg.atanC[5] s.cfg.atanC[4]) s.cfg.atanC[3]) s.cfg.atanC[2])
      s.cfg.atanC[1]) s.cfg.atanC[0]
    exec (.atanS1 a b) s = .next (s.respond (fmul n p a)) ∧
    (isZero a = true → s.cfg.wellFormed = true → s.cfg.atanLeadPositive = true →
      exec (.atanS1 a b) s = .next (s.respond a))

/-- R96: the partition index is the least `i` with `x < ATAN_X[i]`, and 8 when there is none; a boundary value
belongs to the upper partition, `+inf` and a NaN to the last. -/
def Obligations.PartitionIndexIsTheLeast : Prop :=
  ∀ (c : Cfg) (x : Word),
    (∀ j : Fin 9, j < atanIndex c x → flt x c.atanX[j] = false) ∧
    (atanIndex c x < 8 → flt x c.atanX[atanIndex c x] = true) ∧
    (c.wellFormed = true → ∀ k : Fin 9, k < 8 → x = c.atanX[k] → (atanIndex c x).val = k.val + 1) ∧
    (c.wellFormed = true → x = posInf → atanIndex c x = 8) ∧
    (isNaN x = true → atanIndex c x = 8)

/-- R98, R95: ATAN_S2 on its domain: ATAN_S1 directly in partition 0, else the addition formula, whose divisor is
positive in a well-formed configuration. The stage is applied literally, as a function, at `|t|` also where that lies
outside the domain of the ATAN_S1 command (93 U2), so its Horner chain is written out here. -/
def Obligations.AtanStageTwoAddsThePartitionAngle : Prop :=
  ∀ (s : State) (a b : Word), domAtanS2 a = true →
    let n := s.ctx.nan
    let stageOne := fun x : Word =>
      let step := fun (p c : Word) => fadd n (fmul n p (fmul n x x)) c
      fmul n (step (step (step (step (step s.cfg.atanC[5] s.cfg.atanC[4]) s.cfg.atanC[3]) s.cfg.atanC[2])
        s.cfg.atanC[1]) s.cfg.atanC[0]) x
    let i := atanIndex s.cfg a
    let c := s.cfg.atanRcp[i]
    let d := s.cfg.atanRcp2p1[i]
    let t := fsub n c (fdiv n d (fadd n c a))
    let ang := fmul n (i2f (2 * (i.val : ℤ))) 0x3FB921FB54442D18#64
    (i = 0 → exec (.atanS2 a b) s = .next (s.respond (stageOne a))) ∧
    (i ≠ 0 → flt t posZero = true →
      exec (.atanS2 a b) s = .next (s.respond (fsub n ang (stageOne (fneg t))))) ∧
    (i ≠ 0 → flt t posZero = false →
      exec (.atanS2 a b) s = .next (s.respond (fadd n ang (stageOne t)))) ∧
    (i ≠ 0 → s.cfg.wellFormed = true → flt posZero (fadd n c a) = true)

/-- R98: at `+inf` ATAN_S2 is `HALF_PI` exactly, and so is ATAN, when the last reciprocal is `+0.0` as in the default
table (R97). -/
def Obligations.AtanOfInfinityIsHalfPi : Prop :=
  ∀ (s : State) (b : Word), s.cfg.wellFormed = true → s.cfg.atanRcp[8] = posZero →
    exec (.atanS2 posInf b) s = .next (s.respond 0x3FF921FB54442D18#64) ∧
    exec (.atan posInf b) s = .next (s.respond 0x3FF921FB54442D18#64) ∧
    exec (.atan negInf b) s = .next (s.respond 0xBFF921FB54442D18#64)

/-- R99: ATAN is ATAN_S2 with odd symmetry, and `ATAN(-x) = fneg(ATAN(x))` bit for bit for every `x` that is neither
a NaN nor a zero; the two commands run from one state, so with one draw of an arithmetic NaN (log entry 5). -/
def Obligations.AtanIsOdd : Prop :=
  ∀ (s : State) (a b : Word), isNaN a = false →
    (flt a posZero = false → exec (.atan a b) s = .next (s.respond (atanS2Fn s.ctx a))) ∧
    (flt a posZero = true → exec (.atan a b) s = .next (s.respond (fneg (atanS2Fn s.ctx (fneg a))))) ∧
    (isZero a = false → ∃ v, exec (.atan a b) s = .next (s.respond v) ∧
      exec (.atan (fneg a) b) s = .next (s.respond (fneg v)))

/-- R100: the four quadrants of ATAN2 on finite operands, `y` in `a` and `x` in `b`; the quotient it hands to ATAN is
never a NaN. Other operands answer `UNSPEC64`, and the function of a NaN `x` takes the third branch. -/
def Obligations.AtanTwoDispatchesOnTheQuadrant : Prop :=
  (∀ (s : State) (y x : Word), isFinite y = true → isFinite x = true →
    let n := s.ctx.nan
    let q := fdiv n y x
    (0 < value x → isNaN q = false ∧ exec (.atan2 y x) s = .next (s.respond (atanFn s.ctx q))) ∧
    (value x < 0 → value y < 0 → isNaN q = false ∧
      exec (.atan2 y x) s = .next (s.respond (fsub n (atanFn s.ctx q) 0x400921FB54442D18#64))) ∧
    (value x < 0 → 0 ≤ value y → isNaN q = false ∧
      exec (.atan2 y x) s = .next (s.respond (fadd n (atanFn s.ctx q) 0x400921FB54442D18#64))) ∧
    (value x = 0 → 0 < value y → exec (.atan2 y x) s = .next (s.respond 0x3FF921FB54442D18#64)) ∧
    (value x = 0 → value y < 0 → exec (.atan2 y x) s = .next (s.respond 0xBFF921FB54442D18#64)) ∧
    (value x = 0 → value y = 0 → exec (.atan2 y x) s = .next (s.respond s.cfg.nanPattern))) ∧
  (∀ (s : State) (y x : Word), isFinite y = false ∨ isFinite x = false →
    exec (.atan2 y x) s = .next (s.respond s.unspec)) ∧
  (∀ (k : Ctx) (y x : Word), isNaN x = true →
    atan2Fn k y x = if fgt y posZero then 0x3FF921FB54442D18#64
      else if flt y posZero then 0xBFF921FB54442D18#64 else k.cfg.nanPattern)

/-! ### Exponential -/

/-- R110: EXP2_S1 on its domain, written out; at either zero it is exactly 1.0 for every well-formed configuration
with `EXP2_Q[0]` not zero. -/
def Obligations.ExpStageOneEvaluates : Prop :=
  ∀ (s : State) (a b : Word), domExp2S1 a = true →
    let n := s.ctx.nan
    let y := fmul n a a
    let step := fun (p c : Word) => fadd n (fmul n p y) c
    let p := fmul n (step (step s.cfg.exp2P[2] s.cfg.exp2P[1]) s.cfg.exp2P[0]) a
    let q := step (step s.cfg.exp2Q[2] s.cfg.exp2Q[1]) s.cfg.exp2Q[0]
    exec (.exp2S1 a b) s = .next (s.respond (fdiv n (fadd n q p) (fsub n q p))) ∧
    (isZero a = true → s.cfg.wellFormed = true → s.cfg.exp2DenNonzero = true →
      exec (.exp2S1 a b) s = .next (s.respond 0x3FF0000000000000#64))

/-- R112: EXP2 of every operand that is not a NaN: `+0.0` below -1022, `+inf` from 1024 on, and between them the
product of the exact `2^floor(a) * SQRT2` and the EXP2_S1 command of the remainder, which lies in its domain. All
commands run from one state, so with one draw of an arithmetic NaN (log entry 5). -/
def Obligations.ExpTwoSplitsTheRange : Prop :=
  ∀ (s : State) (a b : Word),
    (a = negInf ∨ (isFinite a = true ∧ value a < -1022) → exec (.exp2 a b) s = .next (s.respond posZero)) ∧
    (a = posInf ∨ (isFinite a = true ∧ 1024 ≤ value a) → exec (.exp2 a b) s = .next (s.respond posInf)) ∧
    (isFinite a = true → -1022 ≤ value a → value a < 1024 →
      let n := s.ctx.nan
      ∃ xi v, exec (.floor a b) s = .next (s.respond xi) ∧
        let w := pow2i ⌊value a⌋
        let root := 0x3FF6A09E667F3BCD#64
        let r := fsub n (fsub n a xi) 0x3FE0000000000000#64
        value w = (2 : ℚ) ^ ⌊value a⌋ ∧ value (fmul n w root) = value w * value root ∧ domExp2S1 r = true ∧
        exec (.exp2S1 r b) s = .next (s.respond v) ∧
        exec (.exp2 a b) s = .next (s.respond (fmul n (fmul n w root) v)))

/-- R113: EXP of a finite operand is the EXP2 command of `a * LOG2E`, which is never a NaN; it is `+0.0` when that
product is below -1022 and `+inf` when it is 1024 or more. Both commands run from one state, so with one draw of an
arithmetic NaN (log entry 5): where EXP2_S1 is 0/0 the two patterns agree by that entry only. -/
def Obligations.ExpChangesTheBase : Prop :=
  ∀ (s : State) (a b : Word), isFinite a = true →
    let p := fmul s.ctx.nan a 0x3FF71547652B82FE#64
    isNaN p = false ∧
    (∃ v, exec (.exp2 p b) s = .next (s.respond v) ∧ exec (.exp a b) s = .next (s.respond v)) ∧
    (flt p 0xC08FF00000000000#64 = true → exec (.exp a b) s = .next (s.respond posZero)) ∧
    (fle 0x4090000000000000#64 p = true → exec (.exp a b) s = .next (s.respond posInf))

/-! ### Logarithm -/

/-- R120: LOG2_S1 on its domain, written out; at 1.0 it is a zero under LOG_ONE_EXACT. -/
def Obligations.LogStageOneEvaluates : Prop :=
  ∀ (s : State) (a b : Word), domLog2S1 a = true →
    let n := s.ctx.nan
    let step := fun (p c : Word) => fadd n (fmul n p a) c
    let p := step (step (step s.cfg.log2P[3] s.cfg.log2P[2]) s.cfg.log2P[1]) s.cfg.log2P[0]
    let q := step (step (step s.cfg.log2Q[3] s.cfg.log2Q[2]) s.cfg.log2Q[1]) s.cfg.log2Q[0]
    exec (.log2S1 a b) s = .next (s.respond (fdiv n p q)) ∧
    (a = 0x3FF0000000000000#64 → s.cfg.logOneExact n = true → isZero (fdiv n p q) = true)

/-- R122, R121: LOG2 of a finite operand: the sentinel for `a <= 0`, else the unbiased exponent plus the LOG2_S1
command of the mantissa in [1, 2), which times the power of two is `a` when `a` is normal; a subnormal has exponent
-1023. Both commands run from one state, so with one draw of an arithmetic NaN (log entry 5). -/
def Obligations.LogTwoSplitsExponentAndMantissa : Prop :=
  ∀ (s : State) (a b : Word), isFinite a = true →
    (value a ≤ 0 → exec (.log2 a b) s = .next (s.respond s.cfg.nanPattern)) ∧
    (0 < value a →
      let n := s.ctx.nan
      let m := normmant a
      let e := unbiased a
      domLog2S1 m = true ∧ value m < 2 ∧ value (i2f e) = e ∧
      (isSubnormal a = false → value a = value m * (2 : ℚ) ^ e) ∧ (isSubnormal a = true → e = -1023) ∧
      ∃ v, exec (.log2S1 m b) s = .next (s.respond v) ∧
        exec (.log2 a b) s = .next (s.respond (fadd n (i2f e) v)))

/-- R122 (ii): under LOG_ONE_EXACT the LOG2 of a power of two in the normal range is its exponent exactly. -/
def Obligations.LogTwoOfPowersOfTwo : Prop :=
  ∀ (s : State) (b : Word) (k : ℤ), -1022 ≤ k → k ≤ 1023 → s.cfg.logOneExact s.ctx.nan = true →
    exec (.log2 (pow2i k) b) s = .next (s.respond (i2f k))

/-- R123: LOG of a finite operand is the LOG2 command's result times `LN2`; for `a <= 0` it is some NaN, the pattern
not fixed. Both commands run from one state, so with one draw of an arithmetic NaN (log entry 5). -/
def Obligations.LogChangesTheBase : Prop :=
  ∀ (s : State) (a b : Word), isFinite a = true →
    ∃ v, exec (.log2 a b) s = .next (s.respond v) ∧
      exec (.log a b) s = .next (s.respond (fmul s.ctx.nan v 0x3FE62E42FEFA39EF#64)) ∧
      (value a ≤ 0 → s.cfg.wellFormed = true → isNaN (fmul s.ctx.nan v 0x3FE62E42FEFA39EF#64) = true)

/-! ### Command domains -/

/-- R78: the table of command domains, by value and class; "`-0.0` is inside every domain that contains 0 and a NaN is
inside none". -/
def Obligations.CommandDomainsAreTheIntervals : Prop :=
  ∀ (c : Cfg) (a b : Word),
    (inDomain c (.floor a b) = domFloor a ∧ (domFloor a = true ↔ isFinite a = true ∨ a = posInf ∨ a = negInf)) ∧
    (inDomain c (.sinS1 a b) = domSinS1 a ∧ (domSinS1 a = true ↔ isFinite a = true ∧ 0 ≤ value a ∧ value a ≤ 1)) ∧
    (inDomain c (.sinS2 a b) = domSinS2 a ∧
      (domSinS2 a = true ↔ isFinite a = true ∧ 0 ≤ value a ∧ value a ≤ 1 / 4)) ∧
    (inDomain c (.sinS3 a b) = domSinS3 a ∧ (domSinS3 a = true ↔ isFinite a = true ∧ 0 ≤ value a ∧ value a ≤ 1)) ∧
    (inDomain c (.sin a b) = true ↔ isFinite a = true) ∧
    (inDomain c (.cos a b) = true ↔ isFinite a = true) ∧
    (inDomain c (.atanS1 a b) = domAtanS1 c a ∧
      (domAtanS1 c a = true ↔ isNaN a = false ∧ isNaN c.atanX[0] = false ∧
        0 ≤ extended a ∧ extended a ≤ extended c.atanX[0])) ∧
    (inDomain c (.atanS2 a b) = domAtanS2 a ∧ (domAtanS2 a = true ↔ isNaN a = false ∧ 0 ≤ extended a)) ∧
    (inDomain c (.atan a b) = true ↔ isNaN a = false) ∧
    (inDomain c (.atan2 a b) = true ↔ isFinite a = true ∧ isFinite b = true) ∧
    (inDomain c (.exp2S1 a b) = domExp2S1 a ∧
      (domExp2S1 a = true ↔ isFinite a = true ∧ -1 / 2 ≤ value a ∧ value a ≤ 1 / 2)) ∧
    (inDomain c (.exp2 a b) = true ↔ isNaN a = false) ∧
    (inDomain c (.exp a b) = true ↔ isFinite a = true) ∧
    (inDomain c (.log2S1 a b) = domLog2S1 a ∧ (domLog2S1 a = true ↔ isFinite a = true ∧ 1 ≤ value a ∧ value a ≤ 2)) ∧
    (inDomain c (.log2 a b) = true ↔ isFinite a = true) ∧
    (inDomain c (.log a b) = true ↔ isFinite a = true)
end

