-- ==== Sys2Proof/Laws/Binary64.lean ====
section
/-!
SUPPORT. The binary64 format as arithmetic on naturals (spec R55 to R60), and rounding of what is already
representable (spec R61).
-/

namespace Sys2Proof.Machine

open Sys2Proof

/-- The 63 low bits of a pattern: `mantissa + 2^52 * exponent field`. -/
def low (w : Word) : Nat := (expfield w).toNat * 2 ^ 52 + (mant w).toNat

theorem expfield_toNat (w : Word) : (expfield w).toNat = w.toNat / 2 ^ 52 % 2 ^ 11 := by
  simp [expfield, BitVec.extractLsb'_toNat, Nat.shiftRight_eq_div_pow]

theorem mant_toNat (w : Word) : (mant w).toNat = w.toNat % 2 ^ 52 := by
  simp [mant, BitVec.extractLsb'_toNat]

theorem sign_eq (w : Word) : sign w = decide (2 ^ 63 ≤ w.toNat) := by
  have h := w.isLt
  simp only [sign, BitVec.getLsbD, Nat.testBit_eq_decide_div_mod_eq, decide_eq_decide]
  omega

theorem low_eq (w : Word) : low w = w.toNat % 2 ^ 63 := by
  have h := w.isLt
  rw [low, expfield_toNat, mant_toNat]
  omega

theorem low_lt (w : Word) : low w < 2 ^ 63 := by rw [low_eq]; exact Nat.mod_lt _ (by norm_num)

theorem signed_toNat (neg : Bool) (m : Nat) :
    (signed neg m).toNat = (if neg then 2 ^ 63 else 0) + m % 2 ^ 63 := by
  rw [signed, BitVec.toNat_append, ← Nat.shiftLeft_add_eq_or_of_lt (BitVec.isLt _), BitVec.toNat_ofNat]
  cases neg <;> simp [Nat.shiftLeft_eq]

theorem sign_signed (neg : Bool) (m : Nat) : sign (signed neg m) = neg := by
  have h : m % 2 ^ 63 < 2 ^ 63 := Nat.mod_lt _ (by norm_num)
  rw [sign_eq, signed_toNat]
  cases neg
  · simp; omega
  · simp

theorem low_signed (neg : Bool) {m : Nat} (h : m < 2 ^ 63) : low (signed neg m) = m := by
  rw [low_eq, signed_toNat]
  cases neg <;> simp <;> omega

/-- A pattern is its sign and its 63 low bits. -/
theorem signed_low (w : Word) : signed (sign w) (low w) = w := by
  apply BitVec.eq_of_toNat_eq
  have h := w.isLt
  rw [signed_toNat, low_eq, sign_eq]
  by_cases hs : 2 ^ 63 ≤ w.toNat
  · rw [decide_eq_true hs, if_pos rfl]; omega
  · rw [decide_eq_false hs, if_neg (by simp)]; omega

theorem word_ext {v w : Word} (hs : sign v = sign w) (hl : low v = low w) : v = w := by
  rw [← signed_low v, ← signed_low w, hs, hl]

theorem expfield_eq_iff (w : Word) (n : Nat) (hn : n < 2 ^ 11) :
    expfield w = BitVec.ofNat 11 n ↔ low w / 2 ^ 52 = n := by
  have hm : (mant w).toNat < 2 ^ 52 := (mant w).isLt
  have he : (expfield w).toNat < 2 ^ 11 := (expfield w).isLt
  rw [BitVec.toNat_eq, BitVec.toNat_ofNat, Nat.mod_eq_of_lt hn, low]
  omega

theorem isFinite_iff (w : Word) : isFinite w = true ↔ low w < 2047 * 2 ^ 52 := by
  have h := low_lt w
  have := expfield_eq_iff w 2047 (by norm_num)
  simp only [isFinite, bne_iff_ne, ne_eq]
  rw [show (2047#11) = BitVec.ofNat 11 2047 from rfl, this]
  omega

theorem isInf_iff (w : Word) : isInf w = true ↔ low w = 2047 * 2 ^ 52 := by
  have h := low_lt w
  have := expfield_eq_iff w 2047 (by norm_num)
  have hm : (mant w).toNat < 2 ^ 52 := (mant w).isLt
  have hl : low w = (expfield w).toNat * 2 ^ 52 + (mant w).toNat := rfl
  simp only [isInf, Bool.and_eq_true, beq_iff_eq]
  rw [show (2047#11) = BitVec.ofNat 11 2047 from rfl, this, BitVec.toNat_eq]
  simp only [BitVec.toNat_ofNat]
  omega

theorem isZero_iff (w : Word) : isZero w = true ↔ low w = 0 := by
  have := expfield_eq_iff w 0 (by norm_num)
  have hm : (mant w).toNat < 2 ^ 52 := (mant w).isLt
  have hl : low w = (expfield w).toNat * 2 ^ 52 + (mant w).toNat := rfl
  simp only [isZero, Bool.and_eq_true, beq_iff_eq]
  rw [show (0#11) = BitVec.ofNat 11 0 from rfl, this, BitVec.toNat_eq]
  simp only [BitVec.toNat_ofNat]
  omega

theorem isNaN_iff (w : Word) : isNaN w = true ↔ 2047 * 2 ^ 52 < low w := by
  have h := low_lt w
  have := expfield_eq_iff w 2047 (by norm_num)
  have hm : (mant w).toNat < 2 ^ 52 := (mant w).isLt
  have hl : low w = (expfield w).toNat * 2 ^ 52 + (mant w).toNat := rfl
  simp only [isNaN, Bool.and_eq_true, beq_iff_eq, bne_iff_ne, ne_eq]
  rw [show (2047#11) = BitVec.ofNat 11 2047 from rfl, this, BitVec.toNat_eq]
  simp only [BitVec.toNat_ofNat]
  omega

/-- The magnitude from the 63 low bits (R55). -/
theorem mag_eq (w : Word) :
    mag w = if low w < 2 ^ 52 then low w else (2 ^ 52 + low w % 2 ^ 52) * 2 ^ (low w / 2 ^ 52 - 1) := by
  have hm : (mant w).toNat < 2 ^ 52 := (mant w).isLt
  have hl : low w = (expfield w).toNat * 2 ^ 52 + (mant w).toNat := rfl
  have he : expfield w = 0#11 ↔ low w < 2 ^ 52 := by
    rw [show (0#11) = BitVec.ofNat 11 0 from rfl, expfield_eq_iff w 0 (by norm_num)]
    omega
  have h1 : (mant w).toNat = low w % 2 ^ 52 := by omega
  have h2 : (expfield w).toNat = low w / 2 ^ 52 := by omega
  unfold mag
  by_cases h : low w < 2 ^ 52
  · rw [if_pos (he.2 h), if_pos h, h1, Nat.mod_eq_of_lt h]
  · rw [if_neg (fun hc => h (he.1 hc)), if_neg h, h1, h2]

theorem nearestEven_mul (n q : Nat) (hq : 0 < q) : nearestEven (n * q) q = n := by
  simp [nearestEven, Nat.mul_div_cancel _ hq, hq]

/-- The magnitude of a finite pattern is representable: rounding it gives the pattern back (R61). -/
theorem roundMag_mag {w : Word} (h : isFinite w = true) : roundMag (mag w) 1 = low w := by
  rw [isFinite_iff] at h
  have hmin : min (low w) (2047 * 2 ^ 52) = low w := Nat.min_eq_left (Nat.le_of_lt h)
  unfold roundMag ulpShift
  rw [mag_eq]
  by_cases hs : low w < 2 ^ 52
  · rw [if_pos hs]
    have hlog : Nat.log2 (low w / 1) - 52 = 0 := by
      rw [Nat.div_one]
      by_cases h0 : low w = 0
      · rw [h0]; decide
      · have := (Nat.log2_lt h0).2 hs
        omega
    rw [hlog]
    have := nearestEven_mul (low w) 1 (by norm_num)
    simp only [Nat.mul_one, pow_zero] at this ⊢
    rw [this]
    simpa using hmin
  · rw [if_neg hs]
    generalize hm : low w % 2 ^ 52 = m
    generalize he : low w / 2 ^ 52 = e
    have hm' : m < 2 ^ 52 := hm ▸ Nat.mod_lt _ (by norm_num)
    have he' : 1 ≤ e := by omega
    have hlow : low w = e * 2 ^ 52 + m := by omega
    have hne : (2 ^ 52 + m) * 2 ^ (e - 1) ≠ 0 := by positivity
    have hlog : Nat.log2 ((2 ^ 52 + m) * 2 ^ (e - 1)) = 52 + (e - 1) := by
      rw [Nat.log2_eq_iff hne]
      constructor
      · rw [pow_add]
        exact Nat.mul_le_mul_right _ (by omega)
      · rw [show 52 + (e - 1) + 1 = 53 + (e - 1) by omega, pow_add]
        exact Nat.mul_lt_mul_of_pos_right (by omega) (by positivity)
    rw [Nat.div_one, hlog, Nat.add_sub_cancel_left, Nat.one_mul, nearestEven_mul _ _ (by positivity)]
    rw [show (e - 1) * 2 ^ 52 + (2 ^ 52 + m) = low w by rw [hlow]; omega]
    exact hmin

/-- Rounding the exact value of a finite pattern gives the pattern (R61). -/
theorem fround_mag {w : Word} (h : isFinite w = true) : fround (sign w) (mag w) 1 = w := by
  rw [fround, roundMag_mag h, signed_low]

/-- `fneg` inverts the sign and nothing else (R66). -/
theorem sign_fneg (w : Word) : sign (fneg w) = !sign w := by
  simp [sign, fneg]

theorem low_fneg (w : Word) : low (fneg w) = low w := by
  have h : ∀ i, i < 63 → (fneg w).getLsbD i = w.getLsbD i := by
    intro i hi
    have : (0x8000000000000000#64).getLsbD i = false := by
      interval_cases i <;> decide
    simp [fneg, BitVec.getLsbD_xor, this]
  rw [low_eq, low_eq]
  apply Nat.eq_of_testBit_eq
  intro i
  simp only [Nat.testBit_mod_two_pow]
  by_cases hi : i < 63
  · simpa [hi, BitVec.getLsbD] using h i hi
  · simp [hi]

theorem fneg_fneg (w : Word) : fneg (fneg w) = w := by
  apply word_ext
  · simp [sign_fneg]
  · simp [low_fneg]

theorem mag_fneg (w : Word) : mag (fneg w) = mag w := by rw [mag_eq, mag_eq, low_fneg]

theorem units_fneg (w : Word) : units (fneg w) = -units w := by
  unfold units
  rw [sign_fneg, mag_fneg]
  cases sign w <;> simp

theorem isNaN_fneg (w : Word) : isNaN (fneg w) = isNaN w := by
  rw [Bool.eq_iff_iff, isNaN_iff, isNaN_iff, low_fneg]

theorem isFinite_fneg (w : Word) : isFinite (fneg w) = isFinite w := by
  rw [Bool.eq_iff_iff, isFinite_iff, isFinite_iff, low_fneg]

theorem isInf_fneg (w : Word) : isInf (fneg w) = isInf w := by
  rw [Bool.eq_iff_iff, isInf_iff, isInf_iff, low_fneg]

theorem isZero_fneg (w : Word) : isZero (fneg w) = isZero w := by
  rw [Bool.eq_iff_iff, isZero_iff, isZero_iff, low_fneg]

/-- A result of `fround` is never a NaN, and it is finite or the infinity (R61). -/
theorem fround_not_nan (neg : Bool) (p q : Nat) : isNaN (fround neg p q) = false := by
  have h : roundMag p q ≤ 2047 * 2 ^ 52 := Nat.min_le_right _ _
  rw [Bool.eq_false_iff, ne_eq, isNaN_iff, fround, low_signed neg (by omega)]
  omega

/-- The sign of a rounded result is the sign asked for, also when it rounds to zero (R61, R64). -/
theorem sign_fround (neg : Bool) (p q : Nat) : sign (fround neg p q) = neg := sign_signed _ _

end Sys2Proof.Machine
end

