-- ==== Sys2Proof/Laws/Decode.lean ====
section
/-!
SUPPORT. The fields of a made command word and the word made from its fields (spec R40).
-/

namespace Sys2Proof

@[simp] theorem CmdWord.make_op (op : OpCode) (a b : Word) : (CmdWord.make op a b).op = op := by
  apply BitVec.eq_of_getLsbD_eq
  intro i hi
  simp only [CmdWord.op, CmdWord.make, BitVec.getLsbD_extractLsb', BitVec.getLsbD_append, hi, decide_true, Bool.true_and]
  have h1 : ¬ 128 + i < 64 := by omega
  have h2 : ¬ 128 + i - 64 < 64 := by omega
  have h3 : 128 + i - 64 - 64 = i := by omega
  simp [h1, h2, h3]

@[simp] theorem CmdWord.make_opA (op : OpCode) (a b : Word) : (CmdWord.make op a b).opA = a := by
  apply BitVec.eq_of_getLsbD_eq
  intro i hi
  simp only [CmdWord.opA, CmdWord.make, BitVec.getLsbD_extractLsb', BitVec.getLsbD_append, hi, decide_true, Bool.true_and]
  have h1 : ¬ 64 + i < 64 := by omega
  have h3 : 64 + i - 64 = i := by omega
  simp [h1, h3, hi]

@[simp] theorem CmdWord.make_opB (op : OpCode) (a b : Word) : (CmdWord.make op a b).opB = b := by
  apply BitVec.eq_of_getLsbD_eq
  intro i hi
  simp only [CmdWord.opB, CmdWord.make, BitVec.getLsbD_extractLsb', BitVec.getLsbD_append, hi, decide_true, Bool.true_and]
  simp [hi]

/-- A command word is its three fields (R40). -/
@[simp] theorem CmdWord.make_fields (c : CmdWord) : CmdWord.make c.op c.opA c.opB = c := by
  apply BitVec.eq_of_getLsbD_eq
  intro i hi
  simp only [CmdWord.make, CmdWord.op, CmdWord.opA, CmdWord.opB, BitVec.getLsbD_append, BitVec.getLsbD_extractLsb']
  by_cases h1 : i < 64
  · simp [h1]
  · by_cases h2 : i - 64 < 64
    · have : 64 + (i - 64) = i := by omega
      simp [h1, h2, this]
    · have h3 : i - 64 - 64 < 8 := by omega
      have : 128 + (i - 64 - 64) = i := by omega
      simp [h1, h2, h3, this]

/-- Decoding a made word looks the code up (R49). -/
@[simp] theorem decode_make (op : OpCode) (a b : Word) : decode (CmdWord.make op a b) = decodeFields op a b := by
  simp [decode]

/-- Every admitted operation code has its upper four bits zero (R42). -/
theorem opcode_admitted (i : Instr) : (opcode i).extractLsb' 4 4 = 0#4 := by
  cases i <;> simp only [opcode] <;> decide

@[simp] theorem encode_op (i : Instr) : (encode i).op = opcode i := CmdWord.make_op _ _ _
@[simp] theorem encode_opA (i : Instr) : (encode i).opA = i.opA := CmdWord.make_opA _ _ _
@[simp] theorem encode_opB (i : Instr) : (encode i).opB = i.opB := CmdWord.make_opB _ _ _

end Sys2Proof
end

