-- ==== Sys2Proof/Laws/State.lean ====
section
/-!
SUPPORT. One lemma per field for each operation that updates the state, so that no proof unfolds a record update.
-/

namespace Sys2Proof.Machine

open Sys2Proof

@[simp] theorem State.respond_cfg (s : State) (v : Word) : (s.respond v).cfg = s.cfg := rfl
@[simp] theorem State.respond_unit (s : State) (v : Word) : (s.respond v).unit = .done v := rfl
@[simp] theorem State.respond_pins (s : State) (v : Word) : (s.respond v).pins = s.pins := rfl
@[simp] theorem State.respond_script (s : State) (v : Word) : (s.respond v).script = s.script := rfl
@[simp] theorem State.respond_pending (s : State) (v : Word) : (s.respond v).pending = s.pending := rfl
@[simp] theorem State.respond_record (s : State) (v : Word) : (s.respond v).record = s.record := rfl
@[simp] theorem State.respond_stream (s : State) (v : Word) : (s.respond v).stream = s.stream := rfl
@[simp] theorem State.respond_draws (s : State) (v : Word) : (s.respond v).draws = s.draws + 1 := rfl

@[simp] theorem State.acceptWord_cfg (s : State) (c : CmdWord) : (s.acceptWord c).cfg = s.cfg := rfl
@[simp] theorem State.acceptWord_unit (s : State) (c : CmdWord) : (s.acceptWord c).unit = .busy c.op c.opA c.opB := rfl
@[simp] theorem State.acceptWord_pins (s : State) (c : CmdWord) : (s.acceptWord c).pins = s.pins := rfl
@[simp] theorem State.acceptWord_script (s : State) (c : CmdWord) : (s.acceptWord c).script = s.script := rfl
@[simp] theorem State.acceptWord_pending (s : State) (c : CmdWord) : (s.acceptWord c).pending = some c := rfl
@[simp] theorem State.acceptWord_record (s : State) (c : CmdWord) : (s.acceptWord c).record = s.record := rfl
@[simp] theorem State.acceptWord_stream (s : State) (c : CmdWord) : (s.acceptWord c).stream = s.stream := rfl
@[simp] theorem State.acceptWord_draws (s : State) (c : CmdWord) : (s.acceptWord c).draws = s.draws + 1 := rfl

@[simp] theorem State.deliver_cfg (s : State) (r : Word) : (s.deliver r).cfg = s.cfg := rfl
@[simp] theorem State.deliver_unit (s : State) (r : Word) : (s.deliver r).unit = .idle := rfl
@[simp] theorem State.deliver_pins (s : State) (r : Word) : (s.deliver r).pins = s.pins := rfl
@[simp] theorem State.deliver_script (s : State) (r : Word) : (s.deliver r).script = s.script := rfl
@[simp] theorem State.deliver_pending (s : State) (r : Word) : (s.deliver r).pending = none := rfl
@[simp] theorem State.deliver_record (s : State) (r : Word) : (s.deliver r).record = s.record ++ s.pending.toList.map (fun c => (c, r)) := rfl
@[simp] theorem State.deliver_stream (s : State) (r : Word) : (s.deliver r).stream = s.stream := rfl
@[simp] theorem State.deliver_draws (s : State) (r : Word) : (s.deliver r).draws = s.draws + 1 := rfl

@[simp] theorem State.dropCommand_cfg (s : State) : (s.dropCommand).cfg = s.cfg := rfl
@[simp] theorem State.dropCommand_unit (s : State) : (s.dropCommand).unit = .idle := rfl
@[simp] theorem State.dropCommand_pins (s : State) : (s.dropCommand).pins = s.pins := rfl
@[simp] theorem State.dropCommand_script (s : State) : (s.dropCommand).script = s.script := rfl
@[simp] theorem State.dropCommand_pending (s : State) : (s.dropCommand).pending = none := rfl
@[simp] theorem State.dropCommand_record (s : State) : (s.dropCommand).record = s.record := rfl
@[simp] theorem State.dropCommand_stream (s : State) : (s.dropCommand).stream = s.stream := rfl
@[simp] theorem State.dropCommand_draws (s : State) : (s.dropCommand).draws = s.draws + 1 := rfl

@[simp] theorem State.wait_cfg (s : State) : (s.wait).cfg = s.cfg := rfl
@[simp] theorem State.wait_unit (s : State) : (s.wait).unit = s.unit := rfl
@[simp] theorem State.wait_pins (s : State) : (s.wait).pins = s.pins := rfl
@[simp] theorem State.wait_script (s : State) : (s.wait).script = s.script := rfl
@[simp] theorem State.wait_pending (s : State) : (s.wait).pending = s.pending := rfl
@[simp] theorem State.wait_record (s : State) : (s.wait).record = s.record := rfl
@[simp] theorem State.wait_stream (s : State) : (s.wait).stream = s.stream := rfl
@[simp] theorem State.wait_draws (s : State) : (s.wait).draws = s.draws + 1 := rfl

@[simp] theorem State.loadCommand_cfg (s : State) (c : CmdWord) : (s.loadCommand c).cfg = s.cfg := rfl
@[simp] theorem State.loadCommand_unit (s : State) (c : CmdWord) : (s.loadCommand c).unit = .busy c.op c.opA c.opB := rfl
@[simp] theorem State.loadCommand_pins (s : State) (c : CmdWord) : (s.loadCommand c).pins = { s.pins with rst := false, cmdValid := false } := rfl
@[simp] theorem State.loadCommand_script (s : State) (c : CmdWord) : (s.loadCommand c).script = s.script := rfl
@[simp] theorem State.loadCommand_pending (s : State) (c : CmdWord) : (s.loadCommand c).pending = some c := rfl
@[simp] theorem State.loadCommand_record (s : State) (c : CmdWord) : (s.loadCommand c).record = s.record := rfl
@[simp] theorem State.loadCommand_stream (s : State) (c : CmdWord) : (s.loadCommand c).stream = s.stream := rfl
@[simp] theorem State.loadCommand_draws (s : State) (c : CmdWord) : (s.loadCommand c).draws = s.draws := rfl

@[simp] theorem State.ctx_cfg (s : State) : s.ctx.cfg = s.cfg := rfl

/-- The free NaN of a command is a NaN pattern whatever the free bits are (R71 b). -/
theorem asNaN_isNaN (raw : Word) : isNaN (asNaN raw) = true := by
  unfold asNaN
  split
  · assumption
  · decide

/-- Every NaN pattern can be the outcome (R71 b: nothing but `isNaN` is fixed). -/
theorem asNaN_of_isNaN {w : Word} (h : isNaN w = true) : asNaN w = w := by simp [asNaN, h]

@[simp] theorem State.ctx_nan_isNaN (s : State) : isNaN s.ctx.nan = true := asNaN_isNaN _

/-- The result of a command inside its domain (R78). -/
theorem State.answer_inside (s : State) (f : Ctx → Word) : s.answer true f = .next (s.respond (f s.ctx)) := rfl

/-- The result of a command outside its domain (R78). -/
theorem State.answer_outside (s : State) (f : Ctx → Word) : s.answer false f = .next (s.respond s.unspec) := rfl

/-- All that the host's move can do: it leaves the unit alone, and either keeps the levels, drives the next ones
of its script, or is refused (R22, 93 U7). -/
theorem hostDrive_next {s t u : State} (h : hostDrive s t = .next u) :
    (s.script = [] ∧ u = t) ∨
    ∃ p ps, s.script = p :: ps ∧ s.breaksOffer p = false ∧ u = { t with pins := p, script := ps } := by
  unfold hostDrive at h
  split at h
  · next hs => cases h; exact .inl ⟨hs, rfl⟩
  · next p ps hs =>
    split at h
    · cases h
    · next hb => cases h; exact .inr ⟨p, ps, hs, by simpa using hb, rfl⟩

end Sys2Proof.Machine
end

