-- ==== Sys2Proof/Laws/Exec.lean ====
section
/-!
SUPPORT. What a compute step can do, said once for all sixteen operations (spec R19, R78), and what a step of the
machine can do (R18 to R20, R150, R22).
-/

namespace Sys2Proof.Machine

open Sys2Proof

/-- Every meaning is its function under its domain guard (R78). -/
theorem exec_answer (i : Instr) (s : State) :
    exec i s = s.answer (inDomain s.cfg i) (fun k => function k i) := by
  cases i <;> rfl

/-- The one thing a compute step can do (R19). -/
theorem exec_next_eq {i : Instr} {s t : State} (h : exec i s = .next t) :
    t = s.respond (if inDomain s.cfg i then function s.ctx i else s.unspec) := by
  rw [exec_answer] at h
  injection h with h
  exact h.symm

/-- All that the unit's step can do when it answers a next state: reset, accept, compute, deliver, or nothing. -/
theorem unitStep_next_cases {s t : State} (h : unitStep s = .next t) :
    (s.pins.rst = true ∧ t = s.dropCommand) ∨
    (s.pins.rst = false ∧ s.unit = .idle ∧ s.pins.cmdValid = true ∧ t = s.acceptWord s.pins.cmd) ∨
    (s.pins.rst = false ∧ ∃ op a b i, s.unit = .busy op a b ∧ decodeFields op a b = .instr i ∧ exec i s = .next t) ∨
    (s.pins.rst = false ∧ ∃ r, s.unit = .done r ∧ s.pins.rspReady = true ∧ t = s.deliver r) ∨
    (s.pins.rst = false ∧ t = s.wait ∧
      (s.unit = .idle ∧ s.pins.cmdValid = false ∨ (∃ r, s.unit = .done r) ∧ s.pins.rspReady = false)) := by
  unfold unitStep at h
  cases hr : s.pins.rst
  · simp only [hr, Bool.false_eq_true, if_false] at h
    split at h
    · next hu =>
      cases hv : s.pins.cmdValid <;> simp only [hv, Bool.false_eq_true, if_false, if_true] at h <;> cases h
      · exact .inr (.inr (.inr (.inr ⟨rfl, rfl, .inl ⟨hu, rfl⟩⟩)))
      · exact .inr (.inl ⟨rfl, hu, rfl, rfl⟩)
    · next op a b hu =>
      split at h
      · next i hd => exact .inr (.inr (.inl ⟨rfl, op, a, b, i, hu, hd, h⟩))
      · cases h
    · next r hu =>
      cases hv : s.pins.rspReady <;> simp only [hv, Bool.false_eq_true, if_false, if_true] at h <;> cases h
      · exact .inr (.inr (.inr (.inr ⟨rfl, rfl, .inr ⟨⟨r, hu⟩, rfl⟩⟩)))
      · exact .inr (.inr (.inr (.inl ⟨rfl, r, hu, rfl, rfl⟩)))
  · refine .inl ⟨rfl, ?_⟩
    simp only [hr, if_true] at h
    split at h
    · cases h; rfl
    · split at h <;> cases h; rfl
    · cases h; rfl

/-- A unit that holds a reserved command takes no step, whatever its ports carry (R44). -/
theorem unitStep_reserved {s : State} {op code : OpCode} {a b : Word} (hu : s.unit = .busy op a b)
    (hd : decodeFields op a b = .reserved code) : unitStep s = .refused (.reservedOp code) := by
  simp only [unitStep, hu, hd]

/-- A step that answers is the unit's step and then the host's move. -/
theorem step_next_split {s u : State} (h : step s = .next u) :
    ∃ t, unitStep s = .next t ∧ hostDrive s t = .next u := by
  unfold step at h
  split at h
  · next t ht => exact ⟨t, ht, h⟩
  · cases h
  · cases h

end Sys2Proof.Machine
end

