-- ==== Sys2Proof/Laws/PerInstr.lean ====
section
/-!
SUPPORT. The per-instruction family `OpField`: the word an instruction encodes to is admitted and carries the
instruction's operation code and its two operands in their fields (spec R40, R42).
-/

namespace Sys2Proof.Laws.OpField

open Sys2Proof

/-- `op[7:4]` is zero, `op` is the row's code, and `a` and `b` stand in their fields (R40, R42). -/
def Statement (i : Instr) : Prop :=
  (opcode i).extractLsb' 4 4 = 0#4 ∧ (encode i).op = opcode i ∧ (encode i).opA = i.opA ∧ (encode i).opB = i.opB

theorem floor (a b : Word) : Statement (.floor a b) := ⟨opcode_admitted _, encode_op _, encode_opA _, encode_opB _⟩
theorem sinS1 (a b : Word) : Statement (.sinS1 a b) := ⟨opcode_admitted _, encode_op _, encode_opA _, encode_opB _⟩
theorem sinS2 (a b : Word) : Statement (.sinS2 a b) := ⟨opcode_admitted _, encode_op _, encode_opA _, encode_opB _⟩
theorem sinS3 (a b : Word) : Statement (.sinS3 a b) := ⟨opcode_admitted _, encode_op _, encode_opA _, encode_opB _⟩
theorem sin (a b : Word) : Statement (.sin a b) := ⟨opcode_admitted _, encode_op _, encode_opA _, encode_opB _⟩
theorem cos (a b : Word) : Statement (.cos a b) := ⟨opcode_admitted _, encode_op _, encode_opA _, encode_opB _⟩
theorem atanS1 (a b : Word) : Statement (.atanS1 a b) := ⟨opcode_admitted _, encode_op _, encode_opA _, encode_opB _⟩
theorem atanS2 (a b : Word) : Statement (.atanS2 a b) := ⟨opcode_admitted _, encode_op _, encode_opA _, encode_opB _⟩
theorem atan (a b : Word) : Statement (.atan a b) := ⟨opcode_admitted _, encode_op _, encode_opA _, encode_opB _⟩
theorem atan2 (a b : Word) : Statement (.atan2 a b) := ⟨opcode_admitted _, encode_op _, encode_opA _, encode_opB _⟩
theorem exp2S1 (a b : Word) : Statement (.exp2S1 a b) := ⟨opcode_admitted _, encode_op _, encode_opA _, encode_opB _⟩
theorem exp2 (a b : Word) : Statement (.exp2 a b) := ⟨opcode_admitted _, encode_op _, encode_opA _, encode_opB _⟩
theorem exp (a b : Word) : Statement (.exp a b) := ⟨opcode_admitted _, encode_op _, encode_opA _, encode_opB _⟩
theorem log2S1 (a b : Word) : Statement (.log2S1 a b) := ⟨opcode_admitted _, encode_op _, encode_opA _, encode_opB _⟩
theorem log2 (a b : Word) : Statement (.log2 a b) := ⟨opcode_admitted _, encode_op _, encode_opA _, encode_opB _⟩
theorem log (a b : Word) : Statement (.log a b) := ⟨opcode_admitted _, encode_op _, encode_opA _, encode_opB _⟩

end Sys2Proof.Laws.OpField
end

