-- ==== Sys2Proof/Tests/Slice0.lean ====
section
/-!
SUPPORT. The model's own tests: the ill-formed terms each well-formedness check refuses, one written-out command
word per operation, the spec's own vectors (95_test_vectors.md, configuration T of its section 2), single steps of
the unit, and a witness for the hypotheses of each statement.
-/

-- One theorem at a time: each kernel evaluation waits in a thread of its own, and a file of them is large.
set_option Elab.async false

namespace Sys2Proof.Tests

open Sys2Proof Sys2Proof.Machine

/-- Test configuration T (95 section 2): the spec's stand-in for the OPEN tables, not the source's coefficients. -/
def cfgT : Cfg where
  sinC := #v[0x3FE0C152382D7366#64, 0xBF987FB0791049DD#64, 0x3F357E243EA3FED3#64, 0xBEC1F529239847A9#64, 0x3E418133638EF998#64, 0xBDB656537C1897F2#64]
  atanC := #v[0x3FF0000000000000#64, 0xBFD5555555555555#64, 0x3FC999999999999A#64, 0xBFC2492492492492#64, 0x3FBC71C71C71C71C#64, 0xBFB745D1745D1746#64]
  exp2P := #v[0x4074783153CE6BF7#64, 0x40117BD9F04958E6#64, 0x3F747AF7E911C0BE#64]
  exp2Q := #v[0x408D880000000000#64, 0x40493949DB99460F#64, 0x3FCBB341151DFE58#64]
  log2P := #v[0xC026000000000000#64, 0xC03B000000000000#64, 0x403B000000000000#64, 0x4026000000000000#64]
  log2Q := #v[0x4000A2B23F3BAB73#64, 0x4032B708872320E2#64, 0x4032B708872320E2#64, 0x4000A2B23F3BAB73#64]
  atanX := defaultAtanX
  atanRcp := defaultAtanRcp
  atanRcp2p1 := defaultAtanRcp2p1
  nanPattern := defaultNanPattern
  latency := #v[0,0,0,0,0,0,0,0,0,0,0,0,0,0,0,0]

/-- A NaN pattern with a payload, for the functions' context. -/
def someNaN : Word := 0x7FF8000000001234#64

/-- The context of a function under T. -/
def ctxT : Ctx := { cfg := cfgT, nan := someNaN }

/-- The state after reset, under T. -/
def idleT : State := { State.reset with cfg := cfgT }

/-- A unit under T computing a command. -/
def busyT (op : OpCode) (a b : Word) : State :=
  { idleT with unit := .busy op a b, pending := some (CmdWord.make op a b) }

/-- A unit under T offering a response. -/
def doneT (c : CmdWord) (r : Word) : State := { idleT with unit := .done r, pending := some c }

/-- The result a compute step left in the unit. -/
def resultOf : Host.Outcome State Fault Refusal → Option Word
  | .next t =>
    match t.unit with
    | .done v => some v
    | .idle | .busy _ _ _ => none
  | .fault _ => none
  | .refused _ => none

/-- The step answered a next state. -/
def answered : Host.Outcome State Fault Refusal → Bool
  | .next _ => true
  | .fault _ => false
  | .refused _ => false

/-- The reason of a refusal. -/
def reasonOf : Host.Outcome State Fault Refusal → Option Refusal
  | .next _ => none
  | .fault _ => none
  | .refused r => some r

/-! ### Well-formedness refuses each ill-formed term -/

theorem test_cfgT_well_formed : cfgT.wellFormed = true := by decide +kernel
theorem test_infinite_coefficient_refused :
    Cfg.coeffsFinite { cfgT with sinC := cfgT.sinC.set 0 posInf } = false := by decide +kernel
theorem test_nan_coefficient_refused :
    Cfg.wellFormed { cfgT with log2Q := cfgT.log2Q.set 3 someNaN } = false := by decide +kernel
theorem test_unsorted_bounds_refused :
    Cfg.boundsSorted { cfgT with atanX := cfgT.atanX.set 3 cfgT.atanX[2] } = false := by decide +kernel
theorem test_finite_last_bound_refused :
    Cfg.boundsSorted { cfgT with atanX := cfgT.atanX.set 8 f4 } = false := by decide +kernel
theorem test_zero_first_bound_refused :
    Cfg.boundsSorted { cfgT with atanX := cfgT.atanX.set 0 posZero } = false := by decide +kernel
theorem test_negative_reciprocal_refused :
    Cfg.reciprocalsNonneg { cfgT with atanRcp := cfgT.atanRcp.set 4 0xBFF0000000000000#64 } = false := by
  decide +kernel
theorem test_signalling_sentinel_refused :
    Cfg.sentinelQuiet { cfgT with nanPattern := 0x7FF0000000000001#64 } = false := by decide +kernel
theorem test_reserved_word_not_admitted : CmdWord.admitted 0x103FF00000000000000000000000000000#136 = false := by
  decide +kernel
theorem test_nonzero_unused_b_not_assembled : (Instr.sin f1 1#64).assembled = false := by decide +kernel

/-! ### One command word per operation, written out from R40 and R42 -/

theorem test_decode_floor : decode 0x003FE00000000000018000000000000002#136 = .instr (.floor 0x3FE0000000000001#64 0x8000000000000002#64) := by decide +kernel
theorem test_decode_sinS1 : decode 0x013FE00000000000018000000000000002#136 = .instr (.sinS1 0x3FE0000000000001#64 0x8000000000000002#64) := by decide +kernel
theorem test_decode_sinS2 : decode 0x023FE00000000000018000000000000002#136 = .instr (.sinS2 0x3FE0000000000001#64 0x8000000000000002#64) := by decide +kernel
theorem test_decode_sinS3 : decode 0x033FE00000000000018000000000000002#136 = .instr (.sinS3 0x3FE0000000000001#64 0x8000000000000002#64) := by decide +kernel
theorem test_decode_sin : decode 0x043FE00000000000018000000000000002#136 = .instr (.sin 0x3FE0000000000001#64 0x8000000000000002#64) := by decide +kernel
theorem test_decode_cos : decode 0x053FE00000000000018000000000000002#136 = .instr (.cos 0x3FE0000000000001#64 0x8000000000000002#64) := by decide +kernel
theorem test_decode_atanS1 : decode 0x063FE00000000000018000000000000002#136 = .instr (.atanS1 0x3FE0000000000001#64 0x8000000000000002#64) := by decide +kernel
theorem test_decode_atanS2 : decode 0x073FE00000000000018000000000000002#136 = .instr (.atanS2 0x3FE0000000000001#64 0x8000000000000002#64) := by decide +kernel
theorem test_decode_atan : decode 0x083FE00000000000018000000000000002#136 = .instr (.atan 0x3FE0000000000001#64 0x8000000000000002#64) := by decide +kernel
theorem test_decode_atan2 : decode 0x093FE00000000000018000000000000002#136 = .instr (.atan2 0x3FE0000000000001#64 0x8000000000000002#64) := by decide +kernel
theorem test_decode_exp2S1 : decode 0x0A3FE00000000000018000000000000002#136 = .instr (.exp2S1 0x3FE0000000000001#64 0x8000000000000002#64) := by decide +kernel
theorem test_decode_exp2 : decode 0x0B3FE00000000000018000000000000002#136 = .instr (.exp2 0x3FE0000000000001#64 0x8000000000000002#64) := by decide +kernel
theorem test_decode_exp : decode 0x0C3FE00000000000018000000000000002#136 = .instr (.exp 0x3FE0000000000001#64 0x8000000000000002#64) := by decide +kernel
theorem test_decode_log2S1 : decode 0x0D3FE00000000000018000000000000002#136 = .instr (.log2S1 0x3FE0000000000001#64 0x8000000000000002#64) := by decide +kernel
theorem test_decode_log2 : decode 0x0E3FE00000000000018000000000000002#136 = .instr (.log2 0x3FE0000000000001#64 0x8000000000000002#64) := by decide +kernel
theorem test_decode_log : decode 0x0F3FE00000000000018000000000000002#136 = .instr (.log 0x3FE0000000000001#64 0x8000000000000002#64) := by decide +kernel
theorem test_decode_first_reserved : decode 0x103FF00000000000000000000000000000#136 = .reserved 0x10#8 := by decide +kernel
theorem test_decode_last_reserved : decode 0xFF00000000000000000000000000000000#136 = .reserved 0xFF#8 := by decide +kernel
theorem test_encode_atan2 : encode (.atan2 f1 0xBFF0000000000000#64) = 0x093FF0000000000000BFF0000000000000#136 := by
  decide +kernel
theorem test_table_word :
    decodeTableWord 136 0x043FF00000000000000000000000000000 = some (.sin 0x3FF0000000000000#64 0#64) := by
  decide +kernel

/-! ### Primitives (95 section 3) -/

theorem test_fadd_tie_to_even_up :
    fadd someNaN 0x3FF0000000000001#64 0x3CA0000000000000#64 = 0x3FF0000000000002#64 := by decide +kernel
theorem test_fsub_zero_signs : fsub someNaN negZero posZero = negZero := by decide +kernel
theorem test_fmul_subnormal_tie : fmul someNaN 0x0000000000000003#64 f0_5 = 0x0000000000000002#64 := by decide +kernel
theorem test_fmul_overflow : fmul someNaN 0x7FE1CCF385EBC8A0#64 0x4024000000000000#64 = posInf := by decide +kernel
theorem test_fdiv_third : fdiv someNaN f1 f3 = 0x3FD5555555555555#64 := by decide +kernel
theorem test_ftrunc_keeps_sign : ftrunc someNaN 0xBFD3333333333333#64 = negZero := by decide +kernel
theorem test_i2f_minus_1023 : i2f (-1023) = 0xC08FF80000000000#64 := by decide +kernel
theorem test_f2i_minus_1022 : f2i fm1022 = -1022 := by decide +kernel
theorem test_flt_nan : flt someNaN f1 = false := by decide +kernel
theorem test_feq_zeros : feq negZero posZero = true := by decide +kernel
theorem test_oddpoly_example : oddpoly someNaN [f1, f2, f3] f0_5 = 0x3FEB000000000000#64 := by decide +kernel
theorem test_partition_angle_seven : atanAngle ctxT 7 = 0x3FF5FDBBE9BBA775#64 := by decide +kernel

/-! ### Each operation, as a command, on vectors of 95 sections 3 to 7 -/

theorem test_floor_most_negative_half : resultOf (exec (.floor 0xC32FFFFFFFFFFFFF#64 0#64) idleT) = some 0xC330000000000000#64 := by decide +kernel
theorem test_floor_minus_0_3 : resultOf (exec (.floor 0xBFD3333333333333#64 0#64) idleT) = some 0xBFF0000000000000#64 := by decide +kernel
theorem test_sinS1_half : resultOf (exec (.sinS1 0x3FE0000000000000#64 0#64) idleT) = some 0x3FD0907DC1930691#64 := by decide +kernel
theorem test_sinS1_minus_zero : resultOf (exec (.sinS1 0x8000000000000000#64 0#64) idleT) = some 0x8000000000000000#64 := by decide +kernel
theorem test_sinS2_eighth : resultOf (exec (.sinS2 0x3FC0000000000000#64 0#64) idleT) = some 0x3FE6A09E667F3BCD#64 := by decide +kernel
theorem test_sinS2_quarter : resultOf (exec (.sinS2 0x3FD0000000000000#64 0#64) idleT) = some 0x3FEFFFFFFFFFFFFF#64 := by decide +kernel
theorem test_sinS3_boundary_half : resultOf (exec (.sinS3 0x3FE0000000000000#64 0#64) idleT) = some 0x8000000000000000#64 := by decide +kernel
theorem test_sinS3_below_one : resultOf (exec (.sinS3 0x3FEFFFFFFFFFFFFF#64 0#64) idleT) = some 0xBCC921FB54442D19#64 := by decide +kernel
theorem test_sin_hundred : resultOf (exec (.sin 0x4059000000000000#64 0#64) idleT) = some 0xBFE03425B78C4DC4#64 := by decide +kernel
theorem test_sin_phase_rounds_to_one : resultOf (exec (.sin 0xBBC79CA10C924223#64 0#64) idleT) = some 0x8000000000000000#64 := by decide +kernel
theorem test_cos_minus_one : resultOf (exec (.cos 0xBFF0000000000000#64 0#64) idleT) = some 0x3FE14A280FB5068C#64 := by decide +kernel
theorem test_cos_half_pi : resultOf (exec (.cos 0x3FF921FB54442D18#64 0#64) idleT) = some 0x8000000000000000#64 := by decide +kernel
theorem test_atanS1_end_of_interval : resultOf (exec (.atanS1 0x3FB936BB8C5B2DA2#64 0#64) idleT) = some 0x3FB921FB54442B55#64 := by decide +kernel
theorem test_atanS1_twentieth : resultOf (exec (.atanS1 0x3FA999999999999A#64 0#64) idleT) = some 0x3FA9942597929F27#64 := by decide +kernel
theorem test_atanS2_first_boundary : resultOf (exec (.atanS2 0x3FB936BB8C5B2DA2#64 0#64) idleT) = some 0x3FB921FB54442EFD#64 := by decide +kernel
theorem test_atanS2_ten : resultOf (exec (.atanS2 0x4024000000000000#64 0#64) idleT) = some 0x3FF789BD2C16003C#64 := by decide +kernel
theorem test_atan_minus_two : resultOf (exec (.atan 0xC000000000000000#64 0#64) idleT) = some 0xBFF1B6E192EBBE44#64 := by decide +kernel
theorem test_atan_minus_infinity : resultOf (exec (.atan 0xFFF0000000000000#64 0#64) idleT) = some 0xBFF921FB54442D18#64 := by decide +kernel
theorem test_atan2_third_quadrant : resultOf (exec (.atan2 0xC008000000000000#64 0xC010000000000000#64) idleT) = some 0xC003FC176B7A8560#64 := by decide +kernel
theorem test_atan2_minus_zero_over_negative : resultOf (exec (.atan2 0x8000000000000000#64 0xBFF0000000000000#64) idleT) = some 0x400921FB54442D18#64 := by decide +kernel
theorem test_exp2S1_quarter : resultOf (exec (.exp2S1 0x3FD0000000000000#64 0#64) idleT) = some 0x3FF306FE0A31B715#64 := by decide +kernel
theorem test_exp2S1_minus_half : resultOf (exec (.exp2S1 0xBFE0000000000000#64 0#64) idleT) = some 0x3FE6A09E667F3BC7#64 := by decide +kernel
theorem test_exp2_least_computed : resultOf (exec (.exp2 0xC08FF00000000000#64 0#64) idleT) = some 0x000FFFFFFFFFFFFC#64 := by decide +kernel
theorem test_exp2_fraction_rounds_to_one : resultOf (exec (.exp2 0xBC90000000000000#64 0#64) idleT) = some 0x3FF0000000000004#64 := by decide +kernel
theorem test_exp_one : resultOf (exec (.exp 0x3FF0000000000000#64 0#64) idleT) = some 0x4005BF0A8B145769#64 := by decide +kernel
theorem test_exp_underflow : resultOf (exec (.exp 0xC086233333333333#64 0#64) idleT) = some 0x0000000000000000#64 := by decide +kernel
theorem test_log2S1_one_and_a_half : resultOf (exec (.log2S1 0x3FF8000000000000#64 0#64) idleT) = some 0x3FE2B801616DFC8D#64 := by decide +kernel
theorem test_log2S1_two : resultOf (exec (.log2S1 0x4000000000000000#64 0#64) idleT) = some 0x3FEFFFB2E2EF1C87#64 := by decide +kernel
theorem test_log2_subnormal : resultOf (exec (.log2 0x000012688B70E62B#64 0#64) idleT) = some 0xC08FF7F2C03BCB3A#64 := by decide +kernel
theorem test_log2_minus_one : resultOf (exec (.log2 0xBFF0000000000000#64 0#64) idleT) = some 0x7FF8000000000000#64 := by decide +kernel
theorem test_log_ten : resultOf (exec (.log 0x4024000000000000#64 0#64) idleT) = some 0x40026BB1BA65E365#64 := by decide +kernel
theorem test_log_least_subnormal : resultOf (exec (.log 0x0000000000000001#64 0#64) idleT) = some 0xC08628B76E3A7B61#64 := by decide +kernel

/-! ### Single steps -/

theorem test_first_step_after_reset_computes :
    answered (step (State.reset.withFetchWord 136 0x0A3FF00000000000000000000000000000)) = true := by decide +kernel
theorem test_floor_runs_first :
    resultOf (step (State.reset.withFetchWord 136 0x00C0040000000000000000000000000000)) = some 0xC008000000000000#64 := by
  decide +kernel
theorem test_reserved_refused :
    reasonOf (step (State.reset.withFetchWord 136 0xFF00000000000000000000000000000000)) = some (.reservedOp 0xFF#8) := by
  decide +kernel
theorem test_reserved_refused_under_reset :
    reasonOf (step { busyT 0x10#8 f1 0#64 with pins := { Pins.quiet with rst := true } }) = some (.reservedOp 0x10#8) := by
  decide +kernel
theorem test_reset_drops_busy :
    step { busyT 0x04#8 f1 0#64 with pins := { Pins.quiet with rst := true } }
      = .next { idleT with pins := { Pins.quiet with rst := true }, draws := 1 } := rfl
theorem test_deliver_records_the_pair :
    step { doneT 5#136 f1 with pins := { Pins.quiet with rspReady := true } }
      = .next { idleT with pins := { Pins.quiet with rspReady := true }, record := [(5#136, f1)], draws := 1 } := rfl
theorem test_untaken_response_stays : step (doneT 5#136 f1) = .next { doneT 5#136 f1 with draws := 1 } := rfl
theorem test_changed_offer_refused :
    reasonOf (step { doneT 5#136 f1 with
      pins := { Pins.quiet with cmdValid := true, cmd := 1#136 }
      script := [{ Pins.quiet with cmdValid := true, cmd := 2#136 }] }) = some .hostChangedCommand := by decide +kernel
theorem test_assembled_line :
    ((parseLine "r = ATAN2 1.0, -0x1p0 ; angle".toList).bind (assemble [])).map encode
      = some 0x093FF0000000000000BFF0000000000000#136 := by decide +kernel
theorem test_named_operand :
    ((parseLine "FLOOR p".toList).bind (assemble [(['p'], 0xC004000000000000#64)])).map encode
      = some 0x00C0040000000000000000000000000000#136 := by decide +kernel

theorem test_run_at_busy_unit_issues_nothing :
    runLine [] (doneT 5#136 f1) ⟨some ['r'], ['C', 'O', 'S'], [.pattern f1]⟩ = none := by decide +kernel

/-! ### Witnesses: the hypotheses of each statement are met together -/

theorem witness_DecodeInvertsEncode : (Instr.atan2 f1 f2).wellFormed = true := rfl
theorem witness_DecodingIsTotalOnTheOpField :
    (0x0F3FF00000000000000000000000000000#136).extractLsb' 132 4 = 0#4 ∧
    (0x103FF00000000000000000000000000000#136).extractLsb' 132 4 ≠ 0#4 := by decide +kernel
theorem witness_AssemblerWritesZeroInUnusedB :
    assemble [] ⟨none, ['C', 'O', 'S'], [.pattern f1]⟩ = some (.cos f1 0#64) ∧
    (AsmOperand.name ['p']).bits [(['p'], f2)] = some f2 ∧
    assemble [(['p'], f2)] ⟨none, ['A', 'T', 'A', 'N', '2'], [.number true 1 4, .name ['p']]⟩
      = some (.atan2 0xBFD0000000000000#64 f2) := by decide +kernel
theorem witness_StepRunsDecodedInstruction :
    (busyT 0x0F#8 f1 0#64).unit = .busy 0x0F#8 f1 0#64 ∧ decodeFields 0x0F#8 f1 0#64 = .instr (.log f1 0#64) ∧
    (busyT 0x0F#8 f1 0#64).pins.rst = false ∧ (busyT 0x0F#8 f1 0#64).hostKeeps = true := by decide +kernel
theorem witness_PlacedCommandRunsNext :
    decodeTableWord 136 0x0F000000000000000000000000000000FF = some (.log 0#64 255#64) := by decide +kernel
theorem witness_AcceptTakesTheWholeWord :
    let s := { idleT with pins := { Pins.quiet with cmdValid := true, cmd := 7#136 } }
    s.unit = .idle ∧ s.pins.rst = false ∧ s.pins.cmdValid = true ∧
      step s = .next { s with unit := .busy 0#8 0#64 7#64, pending := some 7#136, draws := 1 } :=
  ⟨rfl, rfl, rfl, rfl⟩
theorem witness_AcceptedCommandIsAwaited :
    let s := { idleT with pins := { Pins.quiet with cmdValid := true, cmd := 7#136 }, script := [Pins.quiet] }
    s.unit = .idle ∧ s.pins.rst = false ∧ s.pins.cmdValid = true := by decide +kernel
theorem witness_DeliverHandsOverTheResult :
    let s := { doneT 5#136 f1 with pins := { Pins.quiet with rspReady := true } }
    s.unit = .done f1 ∧ s.pending = some 5#136 ∧ s.pins.rst = false ∧ s.pins.rspReady = true ∧ s.hostKeeps = true := by
  decide +kernel
theorem witness_UntakenResponseStays :
    (doneT 5#136 f1).unit = .done f1 ∧ (doneT 5#136 f1).pins.rst = false ∧
    (doneT 5#136 f1).pins.rspReady = false ∧ (doneT 5#136 f1).hostKeeps = true := by decide +kernel
theorem witness_ResetDropsTheCommand :
    let s := { busyT 0x0F#8 f1 0#64 with pins := { Pins.quiet with rst := true } }
    s.pins.rst = true ∧ s.hostKeeps = true ∧ s.unit = .busy 0x0F#8 f1 0#64 ∧ (0x0F#8).extractLsb' 4 4 = 0#4 := by
  decide +kernel
theorem witness_ReservedCommandIsRefused :
    (busyT 0x10#8 f1 0#64).unit = .busy 0x10#8 f1 0#64 ∧ (0x10#8).extractLsb' 4 4 ≠ 0#4 := by decide +kernel
theorem witness_ChangedOfferIsRefused :
    let offer : CmdWord → Pins := fun c => { Pins.quiet with cmdValid := true, cmd := c }
    let s := { doneT 5#136 f1 with pins := offer 1#136, script := [offer 2#136] }
    let u := { idleT with pins := { offer 1#136 with rst := true }, script := [offer 2#136] }
    (s.pins.cmdValid = true ∧ s.unit ≠ .idle ∧ s.script = [offer 2#136] ∧ (offer 2#136).cmdValid = true ∧
      (offer 2#136).cmd ≠ s.pins.cmd) ∧
    (u.pins.cmdValid = true ∧ u.pins.rst = true ∧ u.script = [offer 2#136] ∧ (offer 2#136).cmd ≠ u.pins.cmd) := by
  decide +kernel
theorem witness_SafeStepsAndOnlyTheyAnswer :
    idleT.safe = true ∧ answered (step idleT) = true ∧ (busyT 0x10#8 f1 0#64).safe = false := by decide +kernel
theorem witness_OutputPortsShowThePhase : (doneT 5#136 f1).unit = .done f1 := rfl
theorem witness_CallDeliversExactlyOneResponse :
    idleT.unit = .idle ∧ decode 0x0F3FF00000000000000000000000000000#136 = .instr (.log f1 0#64) ∧
    idleT.pins.cmdValid = false ∧ assemble [] ⟨some ['r'], ['L', 'O', 'G'], [.pattern f1]⟩ = some (.log f1 0#64) := by
  decide +kernel
theorem witness_StepKeepsInvariant : Inv idleT ∧ step idleT = .next { idleT with draws := 1 } :=
  ⟨⟨test_cfgT_well_formed, rfl, fun _ h => absurd h List.not_mem_nil⟩, rfl⟩
theorem witness_ExecChangesOnlyTheResult :
    exec (.floor f1 0#64) idleT = .next (idleT.respond (floorFn idleT.ctx f1)) := by
  have h : inDomain idleT.cfg (.floor f1 0#64) = true := by decide +kernel
  rw [exec_answer, h, State.answer_inside, function]
theorem witness_NoStepWritesATable : step idleT = .next { idleT with draws := 1 } := rfl
theorem witness_EveryStepDrawsAfresh : step (doneT 5#136 f1) = .next { doneT 5#136 f1 with draws := 1 } := rfl
theorem witness_EveryCommandCompletes :
    inDomain cfgT (.exp2S1 f0_5 0#64) = true ∧ inDomain cfgT (.exp2S1 0x3FE0000000000001#64 0#64) = false := by
  decide +kernel
theorem witness_EqualCommandsAnswerAlike :
    idleT.cfg = (doneT 5#136 f1).cfg ∧ inDomain idleT.cfg (.log negZero 0#64) = true := by decide +kernel
theorem witness_UnusedOperandIsIgnored :
    (let c : CmdWord := 0x043FF00000000000000000000000000000#136
     let d : CmdWord := 0x043FF0000000000000DEADBEEF00000001#136
     c.op = d.op ∧ c.opA = d.opA ∧ c.op ≠ 0x09#8 ∧ decode c = .instr (.sin f1 0#64) ∧
       decode d = .instr (.sin f1 0xDEADBEEF00000001#64)) ∧
    isFinite 0x7FEFFFFFFFFFFFFF#64 = true := by decide +kernel
theorem witness_StepsOfDifferentUnitsCommute :
    let sys : System := { units := [idleT, doneT 5#136 f1] }
    (0 : Nat) ≠ 1 ∧ sys.stepUnit 0 = .next { units := [{ idleT with draws := 1 }, doneT 5#136 f1] } ∧
    System.stepUnit 1 { units := [{ idleT with draws := 1 }, doneT 5#136 f1] }
      = .next { units := [{ idleT with draws := 1 }, { doneT 5#136 f1 with draws := 1 }] } :=
  ⟨by decide, rfl, rfl⟩
theorem witness_PatternValues :
    (expfield 0x000FFFFFFFFFFFFF#64).toNat = 0 ∧ (expfield 0x0010000000000000#64).toNat = 1 ∧
    (expfield 0x7FEFFFFFFFFFFFFF#64).toNat = 2046 ∧ (expfield posInf).toNat = 2047 := by decide +kernel
theorem witness_RecomposersBuildPowerAndMantissa : (-1022 : ℤ) ≤ 1023 ∧ (1023 : ℤ) ≤ 1023 := by decide
theorem witness_RoundingIsToNearestEven : 0 < 1 ∧ 0 < 2 := by decide
theorem witness_RepresentableValuesRoundToThemselves :
    isFinite 0x8000000000000001#64 = true ∧ isZero 0x8000000000000001#64 = false := by decide +kernel
theorem witness_AdditionIsTheRoundedSum :
    isNaN someNaN = true ∧ (isInf posInf = true ∧ isInf negInf = true ∧ sign posInf ≠ sign negInf) ∧
    isFinite 0x7FEFFFFFFFFFFFFF#64 = true ∧ (isZero posZero = true ∧ isZero negZero = true ∧ sign posZero ≠ sign negZero) ∧
    (isZero f1 = false ∧ value f1 + value 0xBFF0000000000000#64 = 0) ∧
    value 0x7FEFFFFFFFFFFFFF#64 + value 0x0000000000000001#64 ≠ 0 := by decide +kernel
theorem witness_SubtractionAddsTheNegation :
    isFinite negZero = true ∧ value f1 ≠ value 0x3FF0000000000001#64 := by decide +kernel
theorem witness_ProductIsTheRoundedProduct :
    (isZero negZero = true ∧ isInf negInf = true) ∧ (isNaN f1 = false ∧ isZero f1 = false) ∧
    (isFinite 0x0000000000000001#64 = true ∧ isZero 0x0000000000000001#64 = false) := by decide +kernel
theorem witness_QuotientIsTheRoundedQuotient :
    (isInf negInf = true ∧ isFinite negZero = true ∧ isZero negZero = true ∧ isNaN negInf = false) ∧
    (isZero negInf = false ∧ isFinite f1 = true ∧ isZero f1 = false) := by decide +kernel
theorem witness_ComparisonsAreOfExtendedReals :
    isNaN 0xFFF0000000000001#64 = true ∧ isNaN posInf = false ∧ isNaN negZero = false := by decide +kernel
theorem witness_TruncationIsExact :
    isNaN someNaN = true ∧ isInf negInf = true ∧ isZero negZero = true ∧ isFinite f0_5 = true ∧ isZero f0_5 = false := by
  decide +kernel
theorem witness_SmallIntegersConvertExactly :
    |(-(2 ^ 53) : ℤ)| ≤ 2 ^ 53 ∧ isFinite negZero = true ∧ value negZero = ((0 : ℤ) : ℚ) ∧ |(0 : ℤ)| ≤ 2 ^ 53 := by
  decide +kernel
theorem witness_PiAndRootConstantsAreNearest : isFinite pi = true := by decide +kernel
theorem witness_FloorIsTheMathematicalFloor :
    isFinite negZero = true ∧ isZero negZero = true ∧ isInf negInf = true ∧ isNaN someNaN = true := by decide +kernel
theorem witness_SinStageOneEvaluates :
    domSinS1 f1 = true ∧ domSinS1 negZero = true ∧ isZero negZero = true ∧ idleT.cfg.wellFormed = true ∧
    idleT.cfg.sinLeadPositive = true := by decide +kernel
theorem witness_SinStageTwoTriplesTheAngle : domSinS2 f0_25 = true ∧ domSinS2 negZero = true := by decide +kernel
theorem witness_SinStageThreeFoldsTheQuadrants :
    (domSinS3 negZero = true ∧ value negZero < 1 / 4) ∧ (domSinS3 f0_25 = true ∧ 1 / 4 ≤ value f0_25 ∧ value f0_25 < 1 / 2) ∧
    (domSinS3 f0_5 = true ∧ 1 / 2 ≤ value f0_5 ∧ value f0_5 < 3 / 4) ∧
    (domSinS3 f0_75 = true ∧ 3 / 4 ≤ value f0_75 ∧ domSinS3 f1 = true ∧ 3 / 4 ≤ value f1) := by decide +kernel
theorem witness_SinReducesToThePhase : isFinite 0xFFEFFFFFFFFFFFFF#64 = true := by decide +kernel
theorem witness_CosReducesToTheShiftedPhase : isFinite 0xBC90000000000000#64 = true := by decide +kernel
theorem witness_SinOfZeroAndCosOfHalfPi :
    idleT.cfg.wellFormed = true ∧ idleT.cfg.sinLeadPositive = true := by decide +kernel
theorem witness_AtanStageOneEvaluates :
    domAtanS1 idleT.cfg 0x3FB936BB8C5B2DA2#64 = true ∧ domAtanS1 idleT.cfg negZero = true ∧ isZero negZero = true ∧
    idleT.cfg.wellFormed = true ∧ idleT.cfg.atanLeadPositive = true := by decide +kernel
theorem witness_PartitionIndexIsTheLeast :
    (0 : Fin 9) < atanIndex cfgT posInf ∧ atanIndex cfgT posZero < 8 ∧ cfgT.wellFormed = true ∧
    atanIndex cfgT 0x40244E6C595AFDCC#64 = 8 ∧ isNaN someNaN = true := by decide +kernel
theorem witness_AtanStageTwoAddsThePartitionAngle :
    (domAtanS2 posZero = true ∧ atanIndex cfgT posZero = 0) ∧
    (domAtanS2 0x3FB936BB8C5B2DA2#64 = true ∧ atanIndex cfgT 0x3FB936BB8C5B2DA2#64 ≠ 0 ∧
      flt (atanReduced ctxT (atanIndex cfgT 0x3FB936BB8C5B2DA2#64) 0x3FB936BB8C5B2DA2#64) posZero = true) ∧
    (domAtanS2 posInf = true ∧ atanIndex cfgT posInf ≠ 0 ∧
      flt (atanReduced ctxT (atanIndex cfgT posInf) posInf) posZero = false) ∧ cfgT.wellFormed = true := by
  decide +kernel
theorem witness_AtanOfInfinityIsHalfPi : idleT.cfg.wellFormed = true ∧ idleT.cfg.atanRcp[8] = posZero := by
  decide +kernel
theorem witness_AtanIsOdd :
    isNaN negZero = false ∧ flt negZero posZero = false ∧ flt negInf posZero = true ∧ isNaN negInf = false ∧
    isZero negInf = false := by decide +kernel
theorem witness_AtanTwoDispatchesOnTheQuadrant :
    isFinite negZero = true ∧ isFinite 0x8000000000000001#64 = true ∧ 0 < value 0x0000000000000001#64 ∧
    value 0x8000000000000001#64 < 0 ∧ value negZero = 0 ∧ 0 ≤ value negZero ∧ isFinite posInf = false ∧
    isNaN someNaN = true := by decide +kernel
theorem witness_ExpStageOneEvaluates :
    domExp2S1 f0_5 = true ∧ domExp2S1 fm0_5 = true ∧ domExp2S1 negZero = true ∧ isZero negZero = true ∧
    idleT.cfg.wellFormed = true ∧ idleT.cfg.exp2DenNonzero = true := by decide +kernel
theorem witness_ExpTwoSplitsTheRange :
    (isFinite 0xC08FF00000000001#64 = true ∧ value 0xC08FF00000000001#64 < -1022) ∧
    (isFinite 0x4090000000000000#64 = true ∧ 1024 ≤ value 0x4090000000000000#64) ∧
    (isFinite fm1022 = true ∧ -1022 ≤ value fm1022 ∧ value fm1022 < 1024) ∧ value 0x408FFFFFFFFFFFFF#64 < 1024 := by
  decide +kernel
theorem witness_ExpChangesTheBase :
    isFinite 0xC086233333333333#64 = true ∧ flt (fmul someNaN 0xC086233333333333#64 log2e) fm1022 = true ∧
    isFinite 0x4086300000000000#64 = true ∧
    fle 0x4090000000000000#64 (fmul someNaN 0x4086300000000000#64 log2e) = true := by decide +kernel
theorem witness_LogStageOneEvaluates :
    domLog2S1 f1 = true ∧ domLog2S1 f2 = true ∧ idleT.cfg.logOneExact idleT.ctx.nan = true := by decide +kernel
theorem witness_LogTwoSplitsExponentAndMantissa :
    (isFinite negZero = true ∧ value negZero ≤ 0) ∧
    (isFinite 0x0000000000000001#64 = true ∧ 0 < value 0x0000000000000001#64 ∧ isSubnormal 0x0000000000000001#64 = true) ∧
    isSubnormal 0x0010000000000000#64 = false := by decide +kernel
theorem witness_LogTwoOfPowersOfTwo :
    (-1022 : ℤ) ≤ -1022 ∧ (1023 : ℤ) ≤ 1023 ∧ idleT.cfg.logOneExact idleT.ctx.nan = true := by decide +kernel
theorem witness_LogChangesTheBase :
    isFinite negZero = true ∧ value negZero ≤ 0 ∧ idleT.cfg.wellFormed = true := by decide +kernel
theorem witness_CommandDomainsAreTheIntervals :
    (domSinS1 f1 = true ∧ value f1 = 1 ∧ domSinS1 0x3FF0000000000001#64 = false) ∧
    (domExp2S1 fm0_5 = true ∧ value fm0_5 = -1 / 2 ∧ domExp2S1 0xBFE0000000000001#64 = false) ∧
    (domLog2S1 f2 = true ∧ domLog2S1 0x4000000000000001#64 = false ∧ domLog2S1 0x3FEFFFFFFFFFFFFF#64 = false) ∧
    (domAtanS1 cfgT cfgT.atanX[0] = true ∧ domAtanS1 cfgT 0x3FB936BB8C5B2DA3#64 = false) ∧
    (domAtanS2 posInf = true ∧ domAtanS2 negZero = true ∧ domAtanS2 0x8000000000000001#64 = false) ∧
    (domFloor negInf = true ∧ domFloor someNaN = false ∧ domSinS2 0x3FD0000000000001#64 = false) := by decide +kernel

end Sys2Proof.Tests
end

section
/-!
PROOFS. The scope statements: every step keeps the invariant (spec R5, R11, R17 to R20, R22, R150), and every step
moves on in its stream of free values (R8). Each is a statement about the unit's steps accept, compute, deliver,
reset and wait, one lemma per step, and one lemma for the host's move.
-/

namespace Sys2Proof

open Sys2Proof.Machine

/-! ### What the phase says, one equation per constructor of `Unit64` (R17) -/

theorem phaseOk_idle_iff {s : State} (hu : s.unit = .idle) : phaseOk s ↔ s.pending = none := by
  simp only [phaseOk, hu]

theorem phaseOk_busy_iff {s : State} {op : OpCode} {a b : Word} (hu : s.unit = .busy op a b) :
    phaseOk s ↔ s.pending = some (CmdWord.make op a b) := by
  simp only [phaseOk, hu]

theorem phaseOk_done_iff {s : State} {r : Word} (hu : s.unit = .done r) :
    phaseOk s ↔ ∃ c, s.pending = some c ∧ PermittedWord s.cfg c r := by
  simp only [phaseOk, hu]

/-! ### What a command may answer (R19, R78) -/

theorem permittedWord_iff_of_decode {c : Cfg} {w : CmdWord} {i : Instr} {v : Word} (hd : decode w = .instr i) :
    PermittedWord c w v ↔ Permitted c i v := by
  simp only [PermittedWord, hd]

/-- The drawn NaN pattern of the state is the one `Permitted` asks for (R71 b). -/
theorem permitted_exec_result (i : Instr) (s : State) :
    Permitted s.cfg i (if inDomain s.cfg i then function s.ctx i else s.unspec) := by
  intro hin
  exact ⟨s.ctx.nan, s.ctx_nan_isNaN, if_pos hin⟩

/-! ### Each step of the unit keeps the invariant -/

namespace Inv

variable {s t : State}

theorem dropCommand (h : Inv s) : Inv s.dropCommand := by
  obtain ⟨hcfg, -, hrec⟩ := h
  exact ⟨hcfg, (phaseOk_idle_iff s.dropCommand_unit).2 s.dropCommand_pending, hrec⟩

/-- The fields the unit takes are those of the awaited word (R18). -/
theorem acceptWord (h : Inv s) (c : CmdWord) : Inv (s.acceptWord c) := by
  obtain ⟨hcfg, -, hrec⟩ := h
  refine ⟨hcfg, (phaseOk_busy_iff (s.acceptWord_unit c)).2 ?_, hrec⟩
  rw [State.acceptWord_pending, CmdWord.make_fields]

theorem wait (h : Inv s) : Inv s.wait := h

theorem compute {op : OpCode} {a b : Word} {i : Instr} (h : Inv s) (hu : s.unit = .busy op a b)
    (hd : decodeFields op a b = .instr i) (he : exec i s = .next t) : Inv t := by
  obtain ⟨hcfg, hphase, hrec⟩ := h
  have hawaited : s.pending = some (CmdWord.make op a b) := (phaseOk_busy_iff hu).1 hphase
  have hdec : decode (CmdWord.make op a b) = .instr i := (decode_make op a b).trans hd
  rw [exec_next_eq he]
  refine ⟨hcfg, (phaseOk_done_iff (State.respond_unit _ _)).2 ⟨CmdWord.make op a b, hawaited, ?_⟩, hrec⟩
  exact (permittedWord_iff_of_decode hdec).2 (permitted_exec_result i s)

/-- The one new pair of the record is the awaited command with the result the phase DONE vouches for (R20). -/
theorem deliver {r : Word} (h : Inv s) (hu : s.unit = .done r) : Inv (s.deliver r) := by
  obtain ⟨hcfg, hphase, hrec⟩ := h
  obtain ⟨c, hawaited, hperm⟩ := (phaseOk_done_iff hu).1 hphase
  refine ⟨hcfg, (phaseOk_idle_iff (s.deliver_unit r)).2 (s.deliver_pending r), ?_⟩
  have hrecord : (s.deliver r).record = s.record ++ [(c, r)] := by simp [hawaited]
  rw [hrecord, List.forall_mem_append, List.forall_mem_singleton]
  exact ⟨hrec, hperm⟩

theorem of_unitStep (h : Inv s) (hs : unitStep s = .next t) : Inv t := by
  obtain ⟨-, rfl⟩ | ⟨-, -, -, rfl⟩ | ⟨-, op, a, b, i, hu, hd, he⟩ | ⟨-, r, hu, -, rfl⟩ | ⟨-, rfl, -⟩ :=
    unitStep_next_cases hs
  · exact h.dropCommand
  · exact h.acceptWord _
  · exact h.compute hu hd he
  · exact h.deliver hu
  · exact h.wait

/-- The host's move writes the ports and the script, which the invariant does not read. -/
theorem of_hostDrive {u : State} (h : Inv t) (hd : hostDrive s t = .next u) : Inv u := by
  obtain ⟨-, rfl⟩ | ⟨p, ps, -, -, rfl⟩ := hostDrive_next hd
  · exact h
  · exact h

end Inv

/-- Settles O17: the unit's step keeps the invariant, case by case, and the host's move does not touch it. -/
theorem stepKeepsInvariant : Obligations.StepKeepsInvariant := by
  intro s u hinv hstep
  obtain ⟨t, hunit, hhost⟩ := step_next_split hstep
  exact (hinv.of_unitStep hunit).of_hostDrive hhost

/-! ### Free values -/

/-- Each of the unit's steps uses up one draw of its stream (R8). -/
theorem unitStep_uses_one_draw {s t : State} (h : unitStep s = .next t) :
    t.stream = s.stream ∧ t.draws = s.draws + 1 := by
  obtain ⟨-, rfl⟩ | ⟨-, -, -, rfl⟩ | ⟨-, op, a, b, i, -, -, he⟩ | ⟨-, r, -, -, rfl⟩ | ⟨-, rfl, -⟩ :=
    unitStep_next_cases h
  · exact ⟨s.dropCommand_stream, s.dropCommand_draws⟩
  · exact ⟨s.acceptWord_stream _, s.acceptWord_draws _⟩
  · rw [exec_next_eq he]
    exact ⟨s.respond_stream _, s.respond_draws _⟩
  · exact ⟨s.deliver_stream r, s.deliver_draws r⟩
  · exact ⟨s.wait_stream, s.wait_draws⟩

theorem hostDrive_makes_no_draw {s t u : State} (h : hostDrive s t = .next u) :
    u.stream = t.stream ∧ u.draws = t.draws := by
  obtain ⟨-, rfl⟩ | ⟨p, ps, -, -, rfl⟩ := hostDrive_next h
  · exact ⟨rfl, rfl⟩
  · exact ⟨rfl, rfl⟩

/-- Settles O21: the unit's step uses up one draw, and the host's move makes none. -/
theorem everyStepDrawsAfresh : Obligations.EveryStepDrawsAfresh := by
  intro s u hstep
  obtain ⟨t, hunit, hhost⟩ := step_next_split hstep
  obtain ⟨hstream, hdraws⟩ := unitStep_uses_one_draw hunit
  obtain ⟨hstream', hdraws'⟩ := hostDrive_makes_no_draw hhost
  exact ⟨hstream'.trans hstream, by omega⟩

end Sys2Proof
end

section
/-!
PROOFS. The state statements (spec 10_state.md): what each step of the unit does and leaves unchanged (R16 to R20,
R22), how the host's next levels come in (R22), what a command answers (R19, R78), that the units of a system do not
touch one another (R22, R140), and that the state before a command decides nothing of its result but the pattern of
an arithmetic NaN (R11, R79).
-/

namespace Sys2Proof

open Sys2Proof.Machine

/-! ### The output ports (R16) -/

theorem cmdReady_iff (s : State) : s.cmdReady = true ↔ s.unit = .idle := by
  cases hu : s.unit <;> simp [State.cmdReady, hu]

theorem rspValid_iff (s : State) : s.rspValid = true ↔ ∃ res, s.unit = .done res := by
  cases hu : s.unit <;> simp [State.rspValid, hu]

theorem rsp_of_done {s : State} {res : Word} (hu : s.unit = .done res) : s.rsp = res := by
  simp only [State.rsp, hu]

/-- Settles O15: each port is read off the phase. -/
theorem outputPortsShowThePhase : Obligations.OutputPortsShowThePhase := fun s =>
  ⟨cmdReady_iff s, rspValid_iff s, fun _ => rsp_of_done⟩

/-! ### The unit's step, one equation per phase and level of the ports (R18 to R20) -/

theorem unitStep_accept {s : State} (hu : s.unit = .idle) (hr : s.pins.rst = false) (hv : s.pins.cmdValid = true) :
    unitStep s = .next (s.acceptWord s.pins.cmd) := by
  simp [unitStep, hu, hr, hv]

theorem unitStep_compute {s : State} {op : OpCode} {a b : Word} {i : Instr} (hu : s.unit = .busy op a b)
    (hd : decodeFields op a b = .instr i) (hr : s.pins.rst = false) : unitStep s = exec i s := by
  simp [unitStep, hu, hd, hr]

theorem unitStep_deliver {s : State} {res : Word} (hu : s.unit = .done res) (hr : s.pins.rst = false)
    (hready : s.pins.rspReady = true) : unitStep s = .next (s.deliver res) := by
  simp [unitStep, hu, hr, hready]

theorem unitStep_wait_done {s : State} {res : Word} (hu : s.unit = .done res) (hr : s.pins.rst = false)
    (hready : s.pins.rspReady = false) : unitStep s = .next s.wait := by
  simp [unitStep, hu, hr, hready]

/-- The ports and the script are the host's: the unit's step writes neither (R22). -/
theorem unitStep_keeps_ports {s t : State} (h : unitStep s = .next t) : t.pins = s.pins ∧ t.script = s.script := by
  obtain ⟨-, rfl⟩ | ⟨-, -, -, rfl⟩ | ⟨-, op, a, b, i, -, -, he⟩ | ⟨-, r, -, -, rfl⟩ | ⟨-, rfl, -⟩ :=
    unitStep_next_cases h
  · exact ⟨s.dropCommand_pins, s.dropCommand_script⟩
  · exact ⟨s.acceptWord_pins _, s.acceptWord_script _⟩
  · rw [exec_next_eq he]
    exact ⟨s.respond_pins _, s.respond_script _⟩
  · exact ⟨s.deliver_pins r, s.deliver_script r⟩
  · exact ⟨s.wait_pins, s.wait_script⟩

/-! ### The host's move (R22) -/

/-- Where no next levels would break the offer, the host keeps its duty whatever its script (R22). -/
theorem hostKeeps_of_forall {s : State} (h : ∀ p, s.breaksOffer p = false) : s.hostKeeps = true := by
  unfold State.hostKeeps
  split
  · rfl
  · simp [h]

theorem hostKeeps_of_no_offer {s : State} (hv : s.pins.cmdValid = false) : s.hostKeeps = true :=
  hostKeeps_of_forall fun p => by simp [State.breaksOffer, hv]

/-- An offer that is accepted in this step may be changed after it (R22). -/
theorem hostKeeps_of_accepts {s : State} (ha : s.accepts = true) : s.hostKeeps = true :=
  hostKeeps_of_forall fun p => by simp [State.breaksOffer, ha]

theorem accepts_of_offer {s : State} (hu : s.unit = .idle) (hr : s.pins.rst = false) (hv : s.pins.cmdValid = true) :
    s.accepts = true := by
  simp [State.accepts, hr, hv, (cmdReady_iff s).2 hu]

theorem not_accepts {s : State} (h : s.pins.rst = true ∨ s.unit ≠ .idle) : s.accepts = false := by
  rcases h with hr | hu
  · simp [State.accepts, hr]
  · have hready : s.cmdReady = false := Bool.eq_false_iff.2 (mt (cmdReady_iff s).1 hu)
    simp [State.accepts, hready]

theorem hostDrive_of_hostKeeps {s t : State} (hk : s.hostKeeps = true) (hp : t.pins = s.pins)
    (hs : t.script = s.script) :
    hostDrive s t = .next { t with pins := s.script.head?.getD s.pins, script := s.script.tail } := by
  cases hscript : s.script with
  | nil =>
    simp only [hostDrive, hscript, List.head?_nil, Option.getD_none, List.tail_nil]
    rw [← hp, ← hscript, ← hs]
  | cons p ps =>
    have hb : s.breaksOffer p = false := by simpa [State.hostKeeps, hscript] using hk
    simp [hostDrive, hscript, hb]

theorem hostDrive_of_breaksOffer {s t : State} {p : Pins} {ps : List Pins} (hs : s.script = p :: ps)
    (hb : s.breaksOffer p = true) : hostDrive s t = .refused .hostChangedCommand := by
  simp [hostDrive, hs, hb]

theorem hostDrive_keeps_unit {s t u : State} (h : hostDrive s t = .next u) : u.unit = t.unit := by
  obtain ⟨-, rfl⟩ | ⟨p, ps, -, -, rfl⟩ := hostDrive_next h
  · rfl
  · rfl

/-- A step of the machine whose host keeps its duty: the unit's next state under the host's next levels. -/
theorem step_of_unitStep {s t : State} (hk : s.hostKeeps = true) (h : unitStep s = .next t) :
    step s = .next { t with pins := s.script.head?.getD s.pins, script := s.script.tail } := by
  obtain ⟨hp, hs⟩ := unitStep_keeps_ports h
  simp only [step, h]
  exact hostDrive_of_hostKeeps hk hp hs

/-! ### What a command answers (R19, R78) -/

/-- Every command completes, whatever the state. -/
theorem exec_completes (i : Instr) (s : State) : ∃ v, exec i s = .next (s.respond v) :=
  ⟨_, exec_answer i s⟩

/-- Settles O22: each meaning is its function under its domain guard. -/
theorem everyCommandCompletes : Obligations.EveryCommandCompletes := by
  intro i s
  rw [exec_answer]
  refine ⟨fun hin => ?_, fun hout => ?_⟩
  · rw [hin, State.answer_inside]
  · rw [hout, State.answer_outside]

/-- Settles O19: the next state of a compute step is `respond`, which writes the unit and the draw counter. -/
theorem execChangesOnlyTheResult : Obligations.ExecChangesOnlyTheResult := by
  intro i s t h
  rw [exec_next_eq h]
  exact ⟨s.respond_cfg _, s.respond_pins _, s.respond_script _, s.respond_pending _, s.respond_record _,
    s.respond_stream _, s.respond_draws _, _, s.respond_unit _⟩

/-! ### The steps of the machine (R18 to R20, R22) -/

/-- Settles O5: the unit's step is `exec` of the decoded instruction, and the host keeps its offer. -/
theorem stepRunsDecodedInstruction : Obligations.StepRunsDecodedInstruction := by
  intro s op a b i hu hd hr hk
  obtain ⟨v, hv⟩ := exec_completes i s
  exact ⟨_, hv, step_of_unitStep hk ((unitStep_compute hu hd hr).trans hv)⟩

/-- A bit pattern of the table is read as the decoder reads the word the placed state holds (R49). -/
theorem decode_of_decodeTableWord {nbits w : Nat} {i : Instr} (h : decodeTableWord nbits w = some i) :
    decode (BitVec.ofNat 136 (w % 2 ^ nbits)) = .instr i := by
  unfold decodeTableWord at h
  split at h
  · split at h
    · next j hj => cases h; exact hj
    · cases h
  · cases h

/-- Settles O6: the placed state is BUSY with the decoded word, without reset, and no offer stands. -/
theorem placedCommandRunsNext : Obligations.PlacedCommandRunsNext := by
  intro s nbits w i h
  have hkeeps : (s.withFetchWord nbits w).hostKeeps = true := hostKeeps_of_no_offer rfl
  exact stepRunsDecodedInstruction _ _ _ _ i (s.loadCommand_unit _) (decode_of_decodeTableWord h) rfl hkeeps

/-- Settles O8: an accept step is `acceptWord`, and the host may move on because its offer is taken. -/
theorem acceptedCommandIsAwaited : Obligations.AcceptedCommandIsAwaited := by
  intro s hu hr hv
  exact step_of_unitStep (hostKeeps_of_accepts (accepts_of_offer hu hr hv)) (unitStep_accept hu hr hv)

/-- Only step accept puts a command into the unit, and it takes the offered word (R18). -/
theorem unitStep_busy {s t : State} {op : OpCode} {a b : Word} (h : unitStep s = .next t)
    (ht : t.unit = .busy op a b) :
    s.unit = .idle ∧ s.pins.rst = false ∧ s.pins.cmdValid = true ∧ t = s.acceptWord s.pins.cmd := by
  obtain ⟨-, rfl⟩ | ⟨hr, hu, hv, rfl⟩ | ⟨-, _, _, _, i, -, -, he⟩ | ⟨-, r, -, -, rfl⟩ | ⟨-, rfl, hw⟩ :=
    unitStep_next_cases h
  · simp at ht
  · exact ⟨hu, hr, hv, rfl⟩
  · simp [exec_next_eq he] at ht
  · simp at ht
  · rw [State.wait_unit] at ht
    simp [ht] at hw

/-- Settles O7: the accept step, and the one way into BUSY. -/
theorem acceptTakesTheWholeWord : Obligations.AcceptTakesTheWholeWord := by
  refine ⟨fun s hu hr hv => ⟨_, acceptedCommandIsAwaited s hu hr hv, rfl⟩, fun s u op a b hstep hbusy => ?_⟩
  obtain ⟨t, hunit, hhost⟩ := step_next_split hstep
  rw [hostDrive_keeps_unit hhost] at hbusy
  obtain ⟨hu, hr, hv, rfl⟩ := unitStep_busy hunit hbusy
  rw [State.acceptWord_unit] at hbusy
  injection hbusy with hop ha hb
  exact ⟨hu, hr, hv, hop.symm, ha.symm, hb.symm⟩

/-- Settles O9: a deliver step is `deliver`, whose one new pair is the awaited command with the result. -/
theorem deliverHandsOverTheResult : Obligations.DeliverHandsOverTheResult := by
  intro s res c hu hc hr hready hk
  rw [step_of_unitStep hk (unitStep_deliver hu hr hready)]
  simp [State.deliver, hc]

/-- Settles O10: a response that is not taken leaves the unit waiting, and a waiting unit keeps its phase. -/
theorem untakenResponseStays : Obligations.UntakenResponseStays := by
  intro s res hu hr hready hk
  exact ⟨_, step_of_unitStep hk (unitStep_wait_done hu hr hready), hu, rfl, rfl⟩

/-- Settles O13: the unit's own step may be refused already; if it answers, the host's move is refused. -/
theorem changedOfferIsRefused : Obligations.ChangedOfferIsRefused := by
  intro s p ps hv hnot hs hpv hne
  have hb : s.breaksOffer p = true := by simp [State.breaksOffer, hv, not_accepts hnot, hpv, hne]
  unfold step
  cases unitStep s with
  | next t => exact ⟨_, hostDrive_of_breaksOffer hs hb⟩
  | fault r => cases r
  | refused r => exact ⟨r, rfl⟩

/-! ### The reset state (R5, R24, R151) -/

/-- A coefficient is finite by construction: its exponent field is below 2047 (R55). -/
theorem isFinite_coeff (c : Coeff) : isFinite c.word = true := by
  have hexp : expfield c.word = BitVec.ofNat 11 c.exp.val := by
    apply BitVec.eq_of_getLsbD_eq
    intro i hi
    have h1 : ¬ 52 + i < 52 := by omega
    have h2 : 52 + i - 52 = i := by omega
    simp only [expfield, Coeff.word, BitVec.getLsbD_extractLsb', BitVec.getLsbD_append]
    simp [h1, h2, hi]
  have hlt : c.exp.val < 2047 := c.exp.isLt
  rw [isFinite, hexp, bne_iff_ne, ne_eq, BitVec.toNat_eq, BitVec.toNat_ofNat, BitVec.toNat_ofNat]
  omega

theorem coeffs_isFinite {n : Nat} (t : Vector Coeff n) : (t.map Coeff.word).toList.all isFinite = true := by
  simp [Vector.toList_map, isFinite_coeff]

/-- The OPEN tables are finite by type, and the spec's default tables by evaluation (R5, R97). -/
theorem powerOnCfg_wellFormed : powerOnCfg.wellFormed = true := by
  have hcoeffs : powerOnCfg.coeffsFinite = true := by
    simp only [Cfg.coeffsFinite, powerOnCfg, coeffs_isFinite, Bool.and_self]
  have hbounds : powerOnCfg.boundsSorted = true := by decide +kernel
  have hrecip : powerOnCfg.reciprocalsNonneg = true := by decide +kernel
  have hquiet : powerOnCfg.sentinelQuiet = true := by decide +kernel
  simp only [Cfg.wellFormed, hcoeffs, hbounds, hrecip, hquiet, Bool.and_self]

/-- Settles O18: the tables are well formed, nothing is in flight, and the record is empty. -/
theorem resetMeetsInvariant : Obligations.ResetMeetsInvariant := by
  have hinv : Inv State.reset := ⟨powerOnCfg_wellFormed, (phaseOk_idle_iff rfl).2 rfl, List.forall_mem_nil _⟩
  exact ⟨hinv, rfl, rfl, rfl⟩

/-! ### Several units (R22, R140) -/

/-- What a step of unit `k` does, with and without a unit `k`: it sets that place of the list and no other. -/
theorem stepUnit_next_iff {k : Nat} {sys u : System} :
    sys.stepUnit k = .next u ↔
      ∃ t, (∀ s, sys.units[k]? = some s → step s = .next t) ∧ u = { units := sys.units.set k t } := by
  cases hk : sys.units[k]? with
  | none =>
    have hset (t : State) : ({ units := sys.units.set k t } : System) = sys := by
      rw [List.set_eq_of_length_le (List.getElem?_eq_none_iff.1 hk)]
    have hstate : Nonempty State := ⟨State.reset⟩
    simp [System.stepUnit, hk, hset, eq_comm]
  | some s => cases hs : step s <;> simp [System.stepUnit, hk, hs, eq_comm]

theorem stepUnit_keeps_other {j k : Nat} {sys u : System} (hjk : j ≠ k) (h : sys.stepUnit j = .next u) :
    u.units[k]? = sys.units[k]? := by
  obtain ⟨t, -, rfl⟩ := stepUnit_next_iff.1 h
  exact List.getElem?_set_ne hjk

/-- Settles O25: each step reads and sets its own place of the list, and settings of two places commute. -/
theorem stepsOfDifferentUnitsCommute : Obligations.StepsOfDifferentUnitsCommute := by
  intro j k sys u v hjk hj hk
  have hku := stepUnit_keeps_other hjk hj
  obtain ⟨tj, hstepj, rfl⟩ := stepUnit_next_iff.1 hj
  obtain ⟨tk, hstepk, rfl⟩ := stepUnit_next_iff.1 hk
  have hk' : sys.stepUnit k = .next { units := sys.units.set k tk } :=
    stepUnit_next_iff.2 ⟨tk, fun s hs => hstepk s (hku.trans hs), rfl⟩
  have hjw := stepUnit_keeps_other hjk.symm hk'
  refine ⟨_, hk', stepUnit_next_iff.2 ⟨tj, fun s hs => hstepj s (hjw.symm.trans hs), ?_⟩, hku, hjw⟩
  rw [List.set_comm _ _ hjk]

end Sys2Proof
end

section
/-!
PROOFS. The state before a command decides nothing of its result but the pattern of an arithmetic NaN (spec R11, R71 b,
R79): two evaluations of one function under one configuration, with two NaN patterns drawn, give results that are equal
or both NaN. Proved bottom up: the comparisons, the four operations, the evaluators, and each pipeline's functions.
-/

namespace Sys2Proof

open Sys2Proof.Machine

/-! ### Equality up to the pattern of a NaN -/

@[refl] theorem sameUpToNaN.refl (x : Word) : sameUpToNaN x x := .inl rfl

/-- Negation maps a NaN to a NaN (R66). -/
theorem sameUpToNaN.fneg {x y : Word} (h : sameUpToNaN x y) : sameUpToNaN (fneg x) (fneg y) := by
  rcases h with rfl | ⟨hx, hy⟩
  · rfl
  · exact .inr ⟨(isNaN_fneg x).trans hx, (isNaN_fneg y).trans hy⟩

theorem sameUpToNaN.ite {p : Prop} [Decidable p] {x y x' y' : Word} (hx : sameUpToNaN x x')
    (hy : sameUpToNaN y y') : sameUpToNaN (if p then x else y) (if p then x' else y') := by
  split
  · exact hx
  · exact hy

/-! A comparison with a NaN is false (R67), so a comparison does not see which NaN it is. -/

theorem flt_of_nan_left {x : Word} (y : Word) (h : isNaN x = true) : flt x y = false := by simp [flt, ordered, h]
theorem fgt_of_nan_left {x : Word} (y : Word) (h : isNaN x = true) : fgt x y = false := by simp [fgt, ordered, h]
theorem feq_of_nan_left {x : Word} (y : Word) (h : isNaN x = true) : feq x y = false := by simp [feq, ordered, h]
theorem feq_of_nan_right (x : Word) {y : Word} (h : isNaN y = true) : feq x y = false := by simp [feq, ordered, h]

theorem sameUpToNaN.flt_eq {x y : Word} (h : sameUpToNaN x y) (z : Word) : flt x z = flt y z := by
  rcases h with rfl | ⟨hx, hy⟩
  · rfl
  · rw [flt_of_nan_left z hx, flt_of_nan_left z hy]

theorem sameUpToNaN.feq_eq {x y x' y' : Word} (hx : sameUpToNaN x x') (hy : sameUpToNaN y y') :
    feq x y = feq x' y' := by
  rcases hx with rfl | ⟨hx, hx'⟩
  · rcases hy with rfl | ⟨hy, hy'⟩
    · rfl
    · rw [feq_of_nan_right x hy, feq_of_nan_right x hy']
  · rw [feq_of_nan_left y hx, feq_of_nan_left y' hx']

/-- The partition index is found by comparisons only (R96). -/
theorem sameUpToNaN.atanIndex_eq {x y : Word} (h : sameUpToNaN x y) (c : Cfg) : atanIndex c x = atanIndex c y := by
  simp only [atanIndex, h.flt_eq]

/-! ### The four operations (R62 to R65) -/

/-- Two patterns that may be drawn for an arithmetic NaN (R71 b). -/
structure BothNaN (n m : Word) : Prop where
  left : isNaN n = true
  right : isNaN m = true

theorem BothNaN.same {n m : Word} (h : BothNaN n m) : sameUpToNaN n m := .inr ⟨h.left, h.right⟩

/-- An operation of R62 to R65: a NaN operand gives the drawn NaN, and on two given operands nothing depends on the
pattern drawn but the NaN itself. -/
structure DrawsNaN (f : Word → Word → Word → Word) : Prop where
  of_nan_left : ∀ {nan x y : Word}, isNaN x = true → f nan x y = nan
  of_nan_right : ∀ {nan x y : Word}, isNaN y = true → f nan x y = nan
  of_draws : ∀ {n m : Word} (x y : Word), BothNaN n m → sameUpToNaN (f n x y) (f m x y)

theorem fadd_drawsNaN : DrawsNaN fadd where
  of_nan_left h := by simp [fadd, h]
  of_nan_right h := by simp [fadd, h]
  of_draws x y h := .ite h.same (.ite (.ite (.refl x) h.same) (.refl _))

theorem fsub_drawsNaN : DrawsNaN fsub where
  of_nan_left h := fadd_drawsNaN.of_nan_left h
  of_nan_right h := fadd_drawsNaN.of_nan_right ((isNaN_fneg _).trans h)
  of_draws x y h := fadd_drawsNaN.of_draws x (fneg y) h

theorem fmul_drawsNaN : DrawsNaN fmul where
  of_nan_left h := by simp [fmul, h]
  of_nan_right h := by simp [fmul, h]
  of_draws x y h := .ite h.same (.ite h.same (.refl _))

theorem fdiv_drawsNaN : DrawsNaN fdiv where
  of_nan_left h := by simp [fdiv, h]
  of_nan_right h := by simp [fdiv, h]
  of_draws x y h := .ite h.same (.ite h.same (.refl _))

/-- Such an operation respects equality up to the pattern of a NaN in the operands and in the draw. -/
theorem DrawsNaN.congr {f : Word → Word → Word → Word} (hf : DrawsNaN f) {n m x y x' y' : Word} (h : BothNaN n m)
    (hx : sameUpToNaN x x') (hy : sameUpToNaN y y') : sameUpToNaN (f n x y) (f m x' y') := by
  rcases hx with rfl | ⟨hx, hx'⟩
  · rcases hy with rfl | ⟨hy, hy'⟩
    · exact hf.of_draws x y h
    · rw [hf.of_nan_right hy, hf.of_nan_right hy']
      exact h.same
  · rw [hf.of_nan_left hx, hf.of_nan_left hx']
    exact h.same

/-- EXP2_S1 of a NaN is a NaN, because the argument scales the numerator `P` last (R110). -/
theorem isNaN_exp2S1Fn {k : Ctx} {x : Word} (hk : isNaN k.nan = true) (hx : isNaN x = true) :
    isNaN (exp2S1Fn k x) = true := by
  have hnum : isNaN (exp2Num k x) = true := by rwa [exp2Num, oddpoly, fmul_drawsNaN.of_nan_right hx]
  have hsum : isNaN (fadd k.nan (exp2Den k x) (exp2Num k x)) = true := by rwa [fadd_drawsNaN.of_nan_right hnum]
  rwa [exp2S1Fn, fdiv_drawsNaN.of_nan_left hsum]

/-- Where FLOOR of the operand is a NaN, so is EXP2 of it, though the scale is built from the NaN's bits (R112). -/
theorem isNaN_exp2Fn {k : Ctx} {x : Word} (hk : isNaN k.nan = true) (hx : isNaN (floorFn k x) = true) :
    isNaN (exp2Fn k x) = true := by
  have hphase : isNaN (fsub k.nan x (floorFn k x)) = true := by rwa [fsub_drawsNaN.of_nan_right hx]
  have hrem : isNaN (exp2Remainder k x) = true := by rwa [exp2Remainder, fsub_drawsNaN.of_nan_left hphase]
  simp only [exp2Fn, flt_of_nan_left _ hx, fgt_of_nan_left _ hx, Bool.false_eq_true, if_false]
  rwa [fmul_drawsNaN.of_nan_right (isNaN_exp2S1Fn hk hrem)]

/-! ### The functions of the pipelines, under one configuration and two NaN patterns -/

namespace BothNaN

variable {n m x y x' y' : Word} {c : Cfg}

theorem fadd_same (h : BothNaN n m) (hx : sameUpToNaN x x') (hy : sameUpToNaN y y') :
    sameUpToNaN (fadd n x y) (fadd m x' y') := fadd_drawsNaN.congr h hx hy

theorem fsub_same (h : BothNaN n m) (hx : sameUpToNaN x x') (hy : sameUpToNaN y y') :
    sameUpToNaN (fsub n x y) (fsub m x' y') := fsub_drawsNaN.congr h hx hy

theorem fmul_same (h : BothNaN n m) (hx : sameUpToNaN x x') (hy : sameUpToNaN y y') :
    sameUpToNaN (fmul n x y) (fmul m x' y') := fmul_drawsNaN.congr h hx hy

theorem fdiv_same (h : BothNaN n m) (hx : sameUpToNaN x x') (hy : sameUpToNaN y y') :
    sameUpToNaN (fdiv n x y) (fdiv m x' y') := fdiv_drawsNaN.congr h hx hy

theorem ftrunc_same (h : BothNaN n m) (hx : sameUpToNaN x y) : sameUpToNaN (ftrunc n x) (ftrunc m y) := by
  rcases hx with rfl | ⟨hx, hy⟩
  · exact .ite h.same (.refl _)
  · rw [ftrunc, ftrunc, if_pos hx, if_pos hy]
    exact h.same

/-- By the recursion of R72, from the highest entry down. -/
theorem horner_same (h : BothNaN n m) (hx : sameUpToNaN x y) : ∀ t, sameUpToNaN (horner n t x) (horner m t y)
  | [] => .refl _
  | [_] => .refl _
  | _ :: d :: t => h.fadd_same (h.fmul_same (h.horner_same hx (d :: t)) hx) (.refl _)

theorem oddpoly_same (h : BothNaN n m) (hx : sameUpToNaN x y) (t : List Word) :
    sameUpToNaN (oddpoly n t x) (oddpoly m t y) := h.fmul_same (h.horner_same (h.fmul_same hx hx) t) hx

theorem floorFn_same (h : BothNaN n m) (hx : sameUpToNaN x y) :
    sameUpToNaN (floorFn ⟨c, n⟩ x) (floorFn ⟨c, m⟩ y) := by
  have ht := h.ftrunc_same hx
  simp only [floorFn, hx.flt_eq, ht.feq_eq hx]
  split_ifs
  · exact h.fsub_same ht (.refl _)
  · exact ht

/-! Sine and cosine (R85 to R89). -/

theorem sinS1Fn_same (h : BothNaN n m) (hx : sameUpToNaN x y) :
    sameUpToNaN (sinS1Fn ⟨c, n⟩ x) (sinS1Fn ⟨c, m⟩ y) :=
  h.oddpoly_same hx _

theorem sinS2Fn_same (h : BothNaN n m) (hx : sameUpToNaN x y) :
    sameUpToNaN (sinS2Fn ⟨c, n⟩ x) (sinS2Fn ⟨c, m⟩ y) :=
  have hs := h.sinS1Fn_same (c := c) (h.fmul_same (.refl f4) hx)
  h.fmul_same hs (h.fsub_same (.refl f3) (h.fmul_same (.refl f4) (h.fmul_same hs hs)))

theorem sinS3Fn_same (h : BothNaN n m) (hx : sameUpToNaN x y) :
    sameUpToNaN (sinS3Fn ⟨c, n⟩ x) (sinS3Fn ⟨c, m⟩ y) := by
  simp only [sinS3Fn, hx.flt_eq]
  split_ifs
  · exact h.sinS2Fn_same hx
  · exact h.sinS2Fn_same (h.fsub_same (.refl _) hx)
  · exact (h.sinS2Fn_same (h.fsub_same hx (.refl _))).fneg
  · exact (h.sinS2Fn_same (h.fsub_same (.refl _) hx)).fneg

theorem phase_same (h : BothNaN n m) (hx : sameUpToNaN x y) : sameUpToNaN (phase ⟨c, n⟩ x) (phase ⟨c, m⟩ y) :=
  h.fsub_same hx (h.floorFn_same hx)

theorem sinFn_same (h : BothNaN n m) (hx : sameUpToNaN x y) : sameUpToNaN (sinFn ⟨c, n⟩ x) (sinFn ⟨c, m⟩ y) :=
  h.sinS3Fn_same (h.phase_same (h.fdiv_same hx (.refl _)))

theorem cosFn_same (h : BothNaN n m) (hx : sameUpToNaN x y) : sameUpToNaN (cosFn ⟨c, n⟩ x) (cosFn ⟨c, m⟩ y) :=
  h.sinS3Fn_same (h.phase_same (h.fadd_same (h.fdiv_same hx (.refl _)) (.refl _)))

/-! Arctangent (R95 to R100). -/

theorem atanS1Fn_same (h : BothNaN n m) (hx : sameUpToNaN x y) :
    sameUpToNaN (atanS1Fn ⟨c, n⟩ x) (atanS1Fn ⟨c, m⟩ y) :=
  h.oddpoly_same hx _

theorem atanAngle_same (h : BothNaN n m) (i : Fin 9) :
    sameUpToNaN (atanAngle ⟨c, n⟩ i) (atanAngle ⟨c, m⟩ i) :=
  h.fmul_same (.refl _) (.refl _)

theorem atanReduced_same (h : BothNaN n m) (hx : sameUpToNaN x y) (i : Fin 9) :
    sameUpToNaN (atanReduced ⟨c, n⟩ i x) (atanReduced ⟨c, m⟩ i y) :=
  h.fsub_same (.refl _) (h.fdiv_same (.refl _) (h.fadd_same (.refl _) hx))

theorem atanS2Fn_same (h : BothNaN n m) (hx : sameUpToNaN x y) :
    sameUpToNaN (atanS2Fn ⟨c, n⟩ x) (atanS2Fn ⟨c, m⟩ y) := by
  have ht := h.atanReduced_same (c := c) hx (atanIndex c y)
  have hang := h.atanAngle_same (c := c) (atanIndex c y)
  simp only [atanS2Fn, hx.atanIndex_eq, ht.flt_eq]
  split_ifs
  · exact h.atanS1Fn_same hx
  · exact h.fsub_same hang (h.atanS1Fn_same ht.fneg)
  · exact h.fadd_same hang (h.atanS1Fn_same ht)

theorem atanFn_same (h : BothNaN n m) (hx : sameUpToNaN x y) :
    sameUpToNaN (atanFn ⟨c, n⟩ x) (atanFn ⟨c, m⟩ y) := by
  simp only [atanFn, hx.flt_eq]
  split_ifs
  · exact (h.atanS2Fn_same hx.fneg).fneg
  · exact h.atanS2Fn_same hx

/-- The branches read the two operands only, which are the command's own (R100). -/
theorem atan2Fn_same (h : BothNaN n m) (y x : Word) :
    sameUpToNaN (atan2Fn ⟨c, n⟩ y x) (atan2Fn ⟨c, m⟩ y x) := by
  have hquot := h.atanFn_same (c := c) (h.fdiv_same (.refl y) (.refl x))
  unfold atan2Fn
  split_ifs
  · exact hquot
  · exact h.fsub_same hquot (.refl _)
  · exact h.fadd_same hquot (.refl _)
  · rfl
  · rfl
  · rfl

/-! Base-2 exponential (R110 to R113). -/

theorem exp2S1Fn_same (h : BothNaN n m) (hx : sameUpToNaN x y) :
    sameUpToNaN (exp2S1Fn ⟨c, n⟩ x) (exp2S1Fn ⟨c, m⟩ y) :=
  have hp : sameUpToNaN (exp2Num ⟨c, n⟩ x) (exp2Num ⟨c, m⟩ y) := h.oddpoly_same hx _
  have hq : sameUpToNaN (exp2Den ⟨c, n⟩ x) (exp2Den ⟨c, m⟩ y) := h.horner_same (h.fmul_same hx hx) _
  h.fdiv_same (h.fadd_same hq hp) (h.fsub_same hq hp)

theorem exp2Remainder_same (h : BothNaN n m) (hx : sameUpToNaN x y) :
    sameUpToNaN (exp2Remainder ⟨c, n⟩ x) (exp2Remainder ⟨c, m⟩ y) :=
  h.fsub_same (h.fsub_same hx (h.floorFn_same hx)) (.refl _)

/-- `pow2i` of a NaN is no NaN, so the case that FLOOR of the operand is one is apart. -/
theorem exp2Fn_same (h : BothNaN n m) (hx : sameUpToNaN x y) :
    sameUpToNaN (exp2Fn ⟨c, n⟩ x) (exp2Fn ⟨c, m⟩ y) := by
  rcases h.floorFn_same (c := c) hx with heq | ⟨hnx, hny⟩
  · simp only [exp2Fn, heq]
    split_ifs
    · rfl
    · rfl
    · exact h.fmul_same (h.fmul_same (.refl _) (.refl _)) (h.exp2S1Fn_same (h.exp2Remainder_same hx))
  · exact .inr ⟨isNaN_exp2Fn h.left hnx, isNaN_exp2Fn h.right hny⟩

theorem expFn_same (h : BothNaN n m) (hx : sameUpToNaN x y) : sameUpToNaN (expFn ⟨c, n⟩ x) (expFn ⟨c, m⟩ y) :=
  h.exp2Fn_same (h.fmul_same hx (.refl _))

/-! Base-2 logarithm (R120 to R123). The exponent and the mantissa are of the command's own operand. -/

theorem log2S1Fn_same (h : BothNaN n m) (hx : sameUpToNaN x y) :
    sameUpToNaN (log2S1Fn ⟨c, n⟩ x) (log2S1Fn ⟨c, m⟩ y) :=
  h.fdiv_same (h.horner_same hx _) (h.horner_same hx _)

theorem log2Fn_same (h : BothNaN n m) (x : Word) : sameUpToNaN (log2Fn ⟨c, n⟩ x) (log2Fn ⟨c, m⟩ x) := by
  unfold log2Fn
  split_ifs
  · rfl
  · exact h.fadd_same (.refl _) (h.log2S1Fn_same (.refl _))

theorem logFn_same (h : BothNaN n m) (x : Word) : sameUpToNaN (logFn ⟨c, n⟩ x) (logFn ⟨c, m⟩ x) :=
  h.fmul_same (h.log2Fn_same x) (.refl _)

/-- The function of every operation (R79), inside its command domain and outside it. -/
theorem function_same (h : BothNaN n m) (i : Instr) :
    sameUpToNaN (function ⟨c, n⟩ i) (function ⟨c, m⟩ i) := by
  cases i with
  | floor a _ => exact h.floorFn_same (.refl a)
  | sinS1 a _ => exact h.sinS1Fn_same (.refl a)
  | sinS2 a _ => exact h.sinS2Fn_same (.refl a)
  | sinS3 a _ => exact h.sinS3Fn_same (.refl a)
  | sin a _ => exact h.sinFn_same (.refl a)
  | cos a _ => exact h.cosFn_same (.refl a)
  | atanS1 a _ => exact h.atanS1Fn_same (.refl a)
  | atanS2 a _ => exact h.atanS2Fn_same (.refl a)
  | atan a _ => exact h.atanFn_same (.refl a)
  | atan2 a b => exact h.atan2Fn_same a b
  | exp2S1 a _ => exact h.exp2S1Fn_same (.refl a)
  | exp2 a _ => exact h.exp2Fn_same (.refl a)
  | exp a _ => exact h.expFn_same (.refl a)
  | log2S1 a _ => exact h.log2S1Fn_same (.refl a)
  | log2 a _ => exact h.log2Fn_same a
  | log a _ => exact h.logFn_same a

end BothNaN

/-- Settles O23: both states give the operation's function of one configuration, each with a NaN pattern of its own. -/
theorem equalCommandsAnswerAlike : Obligations.EqualCommandsAnswerAlike := by
  intro i s t hcfg hin
  have hnan : BothNaN s.ctx.nan t.ctx.nan := ⟨s.ctx_nan_isNaN, t.ctx_nan_isNaN⟩
  have hctx : t.ctx = ⟨s.cfg, t.ctx.nan⟩ := by rw [hcfg, ← t.ctx_cfg]
  refine ⟨function s.ctx i, function t.ctx i, (everyCommandCompletes i s).1 hin,
    (everyCommandCompletes i t).1 (hcfg ▸ hin), ?_⟩
  rw [hctx]
  exact hnan.function_same i

end Sys2Proof
end

section
/-!
PROOFS. The memory statement (spec R21, R26): the configuration is read-only to the unit and to the host.
-/

namespace Sys2Proof

open Sys2Proof.Machine

theorem unitStep_keeps_cfg {s t : State} (h : unitStep s = .next t) : t.cfg = s.cfg := by
  obtain ⟨-, rfl⟩ | ⟨-, -, -, rfl⟩ | ⟨-, op, a, b, i, -, -, he⟩ | ⟨-, r, -, -, rfl⟩ | ⟨-, rfl, -⟩ :=
    unitStep_next_cases h
  · exact s.dropCommand_cfg
  · exact s.acceptWord_cfg _
  · rw [exec_next_eq he]
    exact s.respond_cfg _
  · exact s.deliver_cfg r
  · exact s.wait_cfg

theorem hostDrive_keeps_cfg {s t u : State} (h : hostDrive s t = .next u) : u.cfg = t.cfg := by
  obtain ⟨-, rfl⟩ | ⟨p, ps, -, -, rfl⟩ := hostDrive_next h
  · rfl
  · rfl

/-- Settles O20: neither the unit's step nor the host's move after it writes a table. -/
theorem noStepWritesATable : Obligations.NoStepWritesATable := by
  intro s u h
  obtain ⟨t, hunit, hhost⟩ := step_next_split h
  exact (hostDrive_keeps_cfg hhost).trans (unitStep_keeps_cfg hunit)

end Sys2Proof
end

section
/-!
PROOFS. The encoding statements (spec 30_encoding.md): decoding and encoding agree on every word and every instruction
(R40, R42, R49), a reserved code is refused (R44), and the `b` field that an operation does not use decides nothing
(R43).
-/

namespace Sys2Proof

open Sys2Proof.Machine

/-! ### The operation code map (R42) -/

/-- The row of an instruction's own code, with its own operands, is the instruction. -/
theorem decodeFields_opcode (i : Instr) : decodeFields (opcode i) i.opA i.opB = .instr i := by
  cases i <;> rfl

theorem decode_encode (i : Instr) : decode (encode i) = .instr i :=
  (decode_make _ _ _).trans (decodeFields_opcode i)

/-- Settles O1: the made word is decoded by its code, and the map is right for every row. -/
theorem decodeInvertsEncode : Obligations.DecodeInvertsEncode := fun i _ => decode_encode i

theorem opcode_admitted_iff (op : OpCode) : op.extractLsb' 4 4 = 0#4 ↔ op.toNat < 16 := by
  rw [BitVec.toNat_eq, BitVec.extractLsb'_toNat, Nat.shiftRight_eq_div_pow, BitVec.toNat_ofNat]
  have := op.isLt
  omega

/-- A code with `op[7:4]` zero has a row, and no other code has one: the sixteen rows and the last line of the map. -/
theorem decodeFields_cases (op : OpCode) (a b : Word) :
    (∃ i, decodeFields op a b = .instr i ∧ opcode i = op ∧ i.opA = a ∧ i.opB = b) ∨
    (16 ≤ op.toNat ∧ decodeFields op a b = .reserved op) := by
  unfold decodeFields
  split
  case h_17 => exact .inr ⟨by grind, rfl⟩
  all_goals next hop => exact .inl ⟨_, rfl, BitVec.eq_of_toNat_eq hop.symm, rfl, rfl⟩

theorem decodeFields_admitted {op : OpCode} (h : op.extractLsb' 4 4 = 0#4) (a b : Word) :
    ∃ i, decodeFields op a b = .instr i ∧ opcode i = op ∧ i.opA = a ∧ i.opB = b := by
  have hlt := (opcode_admitted_iff op).1 h
  exact (decodeFields_cases op a b).resolve_right fun hres => by omega

theorem decodeFields_reserved {op : OpCode} (h : op.extractLsb' 4 4 ≠ 0#4) (a b : Word) :
    decodeFields op a b = .reserved op := by
  obtain ⟨i, -, rfl, -, -⟩ | ⟨-, hres⟩ := decodeFields_cases op a b
  · exact absurd (opcode_admitted i) h
  · exact hres

/-- What decodes to an instruction is its code and its operands. -/
theorem decodeFields_instr {op : OpCode} {a b : Word} {i : Instr} (h : decodeFields op a b = .instr i) :
    opcode i = op ∧ i.opA = a ∧ i.opB = b := by
  obtain ⟨j, hj, hfields⟩ | ⟨-, hres⟩ := decodeFields_cases op a b
  · cases h.symm.trans hj
    exact hfields
  · cases h.symm.trans hres

/-- Bits 135:132 of the word are the upper half of its `op` field (R40, R42). -/
theorem CmdWord.upper_op (c : CmdWord) : c.op.extractLsb' 4 4 = c.extractLsb' 132 4 := by
  apply BitVec.eq_of_getLsbD_eq
  intro i hi
  have hin : 4 + i < 8 := by omega
  have hpos : 128 + (4 + i) = 132 + i := by omega
  simp only [CmdWord.op, BitVec.getLsbD_extractLsb', hin, hpos, decide_true, Bool.true_and]

/-- Settles O2: the two kinds of line of the map, and a word is its three fields. -/
theorem decodingIsTotalOnTheOpField : Obligations.DecodingIsTotalOnTheOpField := by
  intro c
  rw [← c.upper_op]
  refine ⟨fun hadm => ?_, fun hres => decodeFields_reserved hres _ _⟩
  obtain ⟨i, hdec, hop, ha, hb⟩ := decodeFields_admitted hadm c.opA c.opB
  exact ⟨i, hdec, hop, by rw [encode, hop, ha, hb, CmdWord.make_fields]⟩

/-- Settles O3: each row's word is the encoding of its instruction, and the written-out words evaluate. -/
theorem sampleWordsDecode : Obligations.SampleWordsDecode := by
  refine ⟨fun a b => ?_, by decide⟩
  exact ⟨decode_encode (.floor a b), decode_encode (.sinS1 a b), decode_encode (.sinS2 a b),
    decode_encode (.sinS3 a b), decode_encode (.sin a b), decode_encode (.cos a b), decode_encode (.atanS1 a b),
    decode_encode (.atanS2 a b), decode_encode (.atan a b), decode_encode (.atan2 a b), decode_encode (.exp2S1 a b),
    decode_encode (.exp2 a b), decode_encode (.exp a b), decode_encode (.log2S1 a b), decode_encode (.log2 a b),
    decode_encode (.log a b)⟩

/-- Settles O12: the held code has no row, so the unit's own step is refused. -/
theorem reservedCommandIsRefused : Obligations.ReservedCommandIsRefused := by
  intro s op a b hu hres
  simp only [step, unitStep_reserved hu (decodeFields_reserved hres a b)]

/-! ### The operand that is not used (R43) -/

/-- With another `b`, the code and the `a` of an operation other than ATAN2 decode to what computes the same. -/
theorem decodeFields_unused_b {i : Instr} (h : opcode i ≠ 0x09#8) (b : Word) :
    ∃ j, decodeFields (opcode i) i.opA b = .instr j ∧ ∀ s, exec j s = exec i s := by
  cases i
  case atan2 => exact absurd rfl h
  all_goals exact ⟨_, rfl, fun _ => rfl⟩

/-- Settles O24: the two words differ in `b` only, and the domain of ATAN2 is that both operands are finite. -/
theorem unusedOperandIsIgnored : Obligations.UnusedOperandIsIgnored := by
  refine ⟨fun c d i j s hop ha hne hi hj => ?_, fun y x s hy hx => ?_⟩
  · obtain ⟨hiop, hia, -⟩ := decodeFields_instr hi
    obtain ⟨k, hk, hexec⟩ := decodeFields_unused_b (hiop ▸ hne) d.opB
    rw [hiop, hia, hop, ha] at hk
    cases hj.symm.trans hk
    exact (hexec s).symm
  · exact (everyCommandCompletes (.atan2 y x) s).1 (by simp [inDomain, domAtan2, hy, hx])

end Sys2Proof
end

section
/-!
PROOFS. Rounding (spec R61): `fround` meets the relation `RoundsTo` for every exact number that is not zero, given by
its sign and its magnitude as a fraction of units `2^(-1074)`.
-/

namespace Sys2Proof

open Sys2Proof.Machine

/-! ### The nearest integer, the even one at a tie -/

theorem nearestEven_ge (p q : Nat) : p / q ≤ nearestEven p q := by
  unfold nearestEven
  dsimp only
  split_ifs <;> omega

theorem nearestEven_le (p q : Nat) : nearestEven p q ≤ p / q + 1 := by
  unfold nearestEven
  dsimp only
  split_ifs <;> omega

/-- The distance to the nearest integer, in halves of the divisor. -/
theorem nearestEven_dist (p : Nat) {q : Nat} (hq : 0 < q) :
    2 * |(p : ℤ) - nearestEven p q * q| ≤ q ∧ (2 * |(p : ℤ) - nearestEven p q * q| = q → nearestEven p q % 2 = 0) := by
  have hlt : p % q < q := Nat.mod_lt p hq
  have hdiv : (p : ℤ) = (p / q : ℕ) * q + (p % q : ℕ) := by exact_mod_cast (Nat.div_add_mod' p q).symm
  have hbelow : |(p : ℤ) - (p / q : ℕ) * q| = (p % q : ℕ) := by rw [hdiv, add_sub_cancel_left, Nat.abs_cast]
  have habove : |(p : ℤ) - (p / q + 1 : ℕ) * q| = q - (p % q : ℕ) := by
    rw [abs_sub_comm, abs_of_nonneg] <;> push_cast at hdiv ⊢ <;> linarith
  unfold nearestEven
  dsimp only
  split_ifs with hless hmore heven
  · rw [hbelow]; omega
  · rw [habove]; omega
  · rw [hbelow]; omega
  · rw [habove]; omega

theorem nearestEven_nearest (p : Nat) {q : Nat} (hq : 0 < q) :
    |(p : ℚ) / q - nearestEven p q| ≤ 1 / 2 ∧
    (|(p : ℚ) / q - nearestEven p q| = 1 / 2 → nearestEven p q % 2 = 0) := by
  have hq' : (0 : ℚ) < q := by exact_mod_cast hq
  have hdist : |(p : ℚ) / q - nearestEven p q| = (2 * |(p : ℤ) - nearestEven p q * q| : ℤ) / (2 * q) := by
    rw [div_sub' hq'.ne', abs_div, abs_of_pos hq']
    push_cast
    rw [mul_div_mul_left _ _ two_ne_zero, mul_comm (q : ℚ)]
  obtain ⟨hle, htie⟩ := nearestEven_dist p hq
  rw [hdist, div_le_div_iff₀ (by positivity) two_pos, div_eq_div_iff (by positivity) two_ne_zero]
  refine ⟨?_, fun h => htie ?_⟩
  · have : ((2 * |(p : ℤ) - nearestEven p q * q| : ℤ) : ℚ) ≤ q := by exact_mod_cast hle
    linarith
  · have : ((2 * |(p : ℤ) - nearestEven p q * q| : ℤ) : ℚ) = (q : ℤ) := by push_cast at h ⊢; linarith
    exact_mod_cast this

/-! ### The unit in the last place -/

theorem lt_of_ulpShift (p : Nat) {q : Nat} (hq : 0 < q) : p < 2 ^ 53 * (q * 2 ^ ulpShift p q) := by
  have hlog : p / q < 2 ^ (ulpShift p q + 53) :=
    Nat.lt_log2_self.trans_le (Nat.pow_le_pow_right two_pos (by unfold ulpShift; omega))
  rw [Nat.div_lt_iff_lt_mul hq] at hlog
  calc p < 2 ^ (ulpShift p q + 53) * q := hlog
    _ = 2 ^ 53 * (q * 2 ^ ulpShift p q) := by ring

theorem le_of_ulpShift (p : Nat) {q : Nat} (hq : 0 < q) :
    ulpShift p q = 0 ∨ 2 ^ 52 * (q * 2 ^ ulpShift p q) ≤ p := by
  refine or_iff_not_imp_left.2 fun hs => ?_
  have hlog : Nat.log2 (p / q) = ulpShift p q + 52 := by unfold ulpShift at hs ⊢; omega
  have hne : p / q ≠ 0 := by
    intro h0
    simp [ulpShift, h0] at hs
  have hle := Nat.log2_self_le hne
  rw [hlog, Nat.le_div_iff_mul_le hq] at hle
  calc 2 ^ 52 * (q * 2 ^ ulpShift p q) = 2 ^ (ulpShift p q + 52) * q := by ring
    _ ≤ p := hle

/-- The significand `n` of R61: at most `2^53`, and `2^52` or more where the number is above the subnormal range. -/
structure IsSignificand (s n : Nat) : Prop where
  le : n ≤ 2 ^ 53
  normal : s = 0 ∨ 2 ^ 52 ≤ n

theorem nearestEven_isSignificand (p : Nat) {q : Nat} (hq : 0 < q) :
    IsSignificand (ulpShift p q) (nearestEven p (q * 2 ^ ulpShift p q)) := by
  have hQ : 0 < q * 2 ^ ulpShift p q := by positivity
  refine ⟨?_, (le_of_ulpShift p hq).imp_right fun h => ?_⟩
  · have := (Nat.div_lt_iff_lt_mul hQ).2 (lt_of_ulpShift p hq)
    have := nearestEven_le p (q * 2 ^ ulpShift p q)
    omega
  · exact ((Nat.le_div_iff_mul_le hQ).2 h).trans (nearestEven_ge _ _)

theorem log_div_two_pow {x : ℚ} (hx : 0 < x) (k : ℕ) : Int.log 2 (x / 2 ^ k) = Int.log 2 x - k := by
  refine eq_of_forall_le_iff fun e => ?_
  rw [← Int.zpow_le_iff_le_log one_lt_two (by positivity), le_sub_iff_add_le, ← Int.zpow_le_iff_le_log one_lt_two hx,
    le_div_iff₀ (by positivity), Nat.cast_ofNat, zpow_add₀ two_ne_zero, zpow_natCast]

/-- R61's exponent of the unit in the last place, and the model's shift, which counts from the least subnormal. -/
theorem ulpExponent_eq {p q : Nat} (hp : 0 < p) (hq : 0 < q) :
    max (Int.log 2 ((p : ℚ) / q / 2 ^ 1074)) (-1022) - 52 = (ulpShift p q : ℤ) - 1074 := by
  have hq' : (0 : ℚ) < q := by exact_mod_cast hq
  have hpos : (0 : ℚ) < (p : ℚ) / q := by positivity
  have hupper : Int.log 2 ((p : ℚ) / q) < (53 + ulpShift p q : ℕ) := by
    have hlt : (p : ℚ) < 2 ^ 53 * (q * 2 ^ ulpShift p q) := by exact_mod_cast lt_of_ulpShift p hq
    rw [← Int.lt_zpow_iff_log_lt one_lt_two hpos, zpow_natCast, div_lt_iff₀ hq', Nat.cast_ofNat, pow_add]
    linarith
  rw [log_div_two_pow hpos]
  obtain hs | hle := le_of_ulpShift p hq
  · omega
  · have hlower : (52 + ulpShift p q : ℕ) ≤ Int.log 2 ((p : ℚ) / q) := by
      have hle : 2 ^ 52 * (q * 2 ^ ulpShift p q) ≤ (p : ℚ) := by exact_mod_cast hle
      rw [← Int.zpow_le_iff_le_log one_lt_two hpos, zpow_natCast, le_div_iff₀ hq', Nat.cast_ofNat, pow_add]
      linarith
    omega

/-! ### The pattern of a significand and a shift (R55) -/

theorem mag_of_low {w : Word} {s n : Nat} (hn : IsSignificand s n) (hlow : low w = s * 2 ^ 52 + n) :
    mag w = n * 2 ^ s := by
  obtain ⟨hle, hnormal⟩ := hn
  rw [mag_eq, hlow]
  obtain hsub | hfull | rfl : n < 2 ^ 52 ∨ (2 ^ 52 ≤ n ∧ n < 2 ^ 53) ∨ n = 2 ^ 53 := by omega
  · obtain rfl : s = 0 := by omega
    rw [if_pos (by omega)]
    simp
  · rw [if_neg (by omega), show (s * 2 ^ 52 + n) / 2 ^ 52 - 1 = s by omega]
    congr 1
    omega
  · rw [if_neg (by omega), show (s * 2 ^ 52 + 2 ^ 53) / 2 ^ 52 - 1 = s + 1 by omega,
      show (s * 2 ^ 52 + 2 ^ 53) % 2 ^ 52 = 0 by omega, pow_succ]
    ring

/-- A magnitude reaches a power of two exactly where its pattern reaches that power's, with exponent field `k + 2`. -/
theorem two_pow_le_iff {s n : Nat} (hn : IsSignificand s n) (k : Nat) :
    2 ^ (53 + k) ≤ n * 2 ^ s ↔ (k + 2) * 2 ^ 52 ≤ s * 2 ^ 52 + n := by
  obtain ⟨hle, hnormal⟩ := hn
  rw [pow_add]
  obtain hs | rfl | hs := lt_trichotomy s k
  · have hsmall : n * 2 ^ s < 2 ^ 53 * 2 ^ k :=
      (Nat.mul_le_mul_right _ hle).trans_lt
        (Nat.mul_lt_mul_of_pos_left (Nat.pow_lt_pow_right one_lt_two hs) (by positivity))
    exact iff_of_false hsmall.not_ge (by omega)
  · rw [Nat.mul_le_mul_right_iff (by positivity)]
    omega
  · have hbig : 2 ^ 53 * 2 ^ k ≤ n * 2 ^ s := calc
      2 ^ 53 * 2 ^ k = 2 ^ 52 * 2 ^ (k + 1) := by ring
      _ ≤ n * 2 ^ s := Nat.mul_le_mul (by omega) (Nat.pow_le_pow_right two_pos hs)
    exact iff_of_true hbig (by omega)

theorem abs_value (w : Word) : |value w| = (mag w : ℚ) / 2 ^ 1074 := by
  have hunits : |(units w : ℚ)| = mag w := by
    unfold units
    split <;> simp
  rw [value, abs_div, hunits, abs_of_pos (by positivity)]

theorem signed_inf (neg : Bool) : signed neg (2047 * 2 ^ 52) = if neg then negInf else posInf := by
  cases neg <;> decide

/-! ### The rounding (R61) -/

theorem two_zpow_sub_1074 (s : ℕ) : (2 : ℚ) ^ ((s : ℤ) - 1074) = 2 ^ s / 2 ^ 1074 := by
  rw [zpow_sub₀ two_ne_zero, zpow_natCast, zpow_ofNat]

/-- Overflow, as R61 puts it, is where the pattern reaches the infinity's. -/
theorem overflow_iff {s n : Nat} (hn : IsSignificand s n) :
    (2 : ℚ) ^ 1024 ≤ n * (2 ^ s / 2 ^ 1074) ↔ 2047 * 2 ^ 52 ≤ s * 2 ^ 52 + n := by
  rw [← mul_div_assoc, le_div_iff₀ (by positivity), ← pow_add, ← two_pow_le_iff hn 2045, ← Nat.cast_le (α := ℚ),
    Nat.cast_mul, Nat.cast_pow, Nat.cast_pow, Nat.cast_ofNat]

/-- The rounding of every exact number that is not zero, by its magnitude `p / q` in units and its sign. -/
theorem roundsTo_fround {r : ℚ} {neg : Bool} {p q : Nat} (hp : 0 < p) (hq : 0 < q)
    (habs : |r| = (p : ℚ) / q / 2 ^ 1074) (hneg : neg = decide (r < 0)) : RoundsTo r (fround neg p q) := by
  have hsig := nearestEven_isSignificand p hq
  obtain ⟨hnear, htie⟩ := nearestEven_nearest p (q := q * 2 ^ ulpShift p q) (by positivity)
  have hquot : (p : ℚ) / q / 2 ^ 1074 / (2 ^ ulpShift p q / 2 ^ 1074) = p / (q * 2 ^ ulpShift p q : ℕ) := by
    rw [div_div_div_cancel_right₀ (by positivity), div_div, Nat.cast_mul, Nat.cast_pow, Nat.cast_ofNat]
  unfold RoundsTo
  dsimp only
  rw [habs, ulpExponent_eq hp hq, two_zpow_sub_1074, hquot]
  refine ⟨_, hnear, htie, ?_⟩
  simp only [overflow_iff hsig]
  split
  · next hover =>
    rw [fround, roundMag, Nat.min_eq_right hover, signed_inf, hneg]
    simp only [decide_eq_true_eq]
  · next hfits =>
    have hlow : low (fround neg p q) = ulpShift p q * 2 ^ 52 + nearestEven p (q * 2 ^ ulpShift p q) := by
      rw [fround, roundMag, Nat.min_eq_left (by omega), low_signed neg (by omega)]
    refine ⟨(isFinite_iff _).2 (by omega), (sign_fround _ _ _).trans hneg, ?_⟩
    rw [abs_value, mag_of_low hsig hlow, Nat.cast_mul, Nat.cast_pow, Nat.cast_ofNat, mul_div_assoc]

end Sys2Proof
end

section
/-!
PROOFS. The assembler statement (spec 30_encoding.md R47): a line assembles to the instruction of its mnemonic with its
operands in order and zero in a `b` field that is not used (R42, R43), and what an operand's bits are.
-/

namespace Sys2Proof

open Sys2Proof.Machine

/-- Each row of the mnemonic table but ATAN2's writes zero in `b` (R43). -/
theorem mnemonicInstr_assembled {m : List Char} {ops : List Word} {i : Instr} (h : mnemonicInstr m ops = some i) :
    i.assembled = true := by
  unfold mnemonicInstr at h
  split at h
  all_goals cases h
  all_goals rfl

theorem assemble_assembled {env : AsmEnv} {l : AsmLine} {i : Instr} (h : assemble env l = some i) :
    i.assembled = true := by
  obtain ⟨ops, -, hrow⟩ := Option.bind_eq_some_iff.1 h
  exact mnemonicInstr_assembled hrow

section OneLine

variable {env : AsmEnv} {l : AsmLine} {o q : AsmOperand} {a b : Word} {m : List Char}

/-- A line with one operand is its mnemonic applied to that operand's bits. -/
theorem assemble_one (hl : l.operands = [o]) (ha : o.bits env = some a) (hm : l.mnemonic = m) :
    assemble env l = mnemonicInstr m [a] := by
  simp [assemble, hl, ha, hm]

/-- A line with two operands is its mnemonic applied to their bits, in order. -/
theorem assemble_two (hl : l.operands = [o, q]) (ha : o.bits env = some a) (hb : q.bits env = some b)
    (hm : l.mnemonic = m) : assemble env l = mnemonicInstr m [a, b] := by
  simp [assemble, hl, ha, hb, hm]

end OneLine

/-- The literal of magnitude `p / q` is that many ones, each of `2^1074` units (R47 ii, R61). -/
theorem roundsTo_literal (neg : Bool) {p q : Nat} (hp : 0 < p) (hq : 0 < q) :
    RoundsTo ((if neg then -1 else 1) * ((p : ℚ) / q)) (fround neg (p * oneUnits) q) := by
  have hpos : (0 : ℚ) < (p : ℚ) / q := by positivity
  have hones : ((p * oneUnits : ℕ) : ℚ) / q / 2 ^ 1074 = (p : ℚ) / q := by
    rw [oneUnits, Nat.cast_mul, Nat.cast_pow, Nat.cast_ofNat, mul_div_right_comm,
      mul_div_cancel_right₀ _ (by positivity)]
  apply roundsTo_fround (Nat.mul_pos hp (by unfold oneUnits; positivity)) hq
  · rw [hones, abs_mul, abs_of_pos hpos]
    cases neg <;> simp
  · cases neg
    · simpa using hpos.le
    · simpa using hpos

/-- Settles O4: each row of the mnemonic table, and each form of an operand. -/
theorem assemblerWritesZeroInUnusedB : Obligations.AssemblerWritesZeroInUnusedB := by
  refine ⟨fun _ _ _ => assemble_assembled, fun env l o a hl ha => ?_, fun env l o q y x hl hy hx => ?_,
    fun env w neg p q n => ?_⟩
  · and_intros
    all_goals exact assemble_one hl ha
  · exact assemble_two hl hy hx
  · exact ⟨rfl, rfl, rfl, fun hp hq => ⟨_, rfl, roundsTo_literal neg hp hq⟩⟩

end Sys2Proof
end

section
/-!
PROOFS. The number format (spec R55, R57, R60, R66): the value and the class of a pattern by its fields, the two
recomposers, and negation.
-/

namespace Sys2Proof

open Sys2Proof.Machine

/-! ### The value of a pattern (R55) -/

/-- The sign of a pattern's value, as a factor. -/
def signFactor (w : Word) : ℚ := if sign w then -1 else 1

theorem units_eq (w : Word) : (units w : ℚ) = signFactor w * mag w := by
  unfold units signFactor
  split <;> simp

theorem value_eq (w : Word) : value w = signFactor w * (mag w / 2 ^ 1074) := by
  rw [value, units_eq, mul_div_assoc]

theorem value_fneg (w : Word) : value (fneg w) = -value w := by
  rw [value, value, units_fneg, Int.cast_neg, neg_div]

theorem mag_of_expfield_zero {w : Word} (h : (expfield w).toNat = 0) : mag w = (mant w).toNat :=
  if_pos (BitVec.eq_of_toNat_eq h)

theorem mag_of_expfield_pos {w : Word} (h : 1 ≤ (expfield w).toNat) :
    mag w = (2 ^ 52 + (mant w).toNat) * 2 ^ ((expfield w).toNat - 1) := by
  refine if_neg fun h0 => ?_
  simp [h0] at h

theorem value_of_expfield_zero {w : Word} (h : (expfield w).toNat = 0) :
    value w = signFactor w * (mant w).toNat * (2 : ℚ) ^ (-1074 : ℤ) := by
  have hpow : (2 : ℚ) ^ (-1074 : ℤ) = 1 / 2 ^ 1074 := by simp
  rw [value_eq, mag_of_expfield_zero h, hpow, mul_one_div, mul_div_assoc]

theorem value_of_expfield_pos {w : Word} (h : 1 ≤ (expfield w).toNat) :
    value w = signFactor w * (2 ^ 52 + (mant w).toNat) * (2 : ℚ) ^ (((expfield w).toNat : ℤ) - 1075) := by
  have hpow : (2 : ℚ) ^ (((expfield w).toNat : ℤ) - 1075) = 2 ^ ((expfield w).toNat - 1) / 2 ^ 1074 := by
    rw [← two_zpow_sub_1074]
    congr 1
    omega
  rw [value_eq, mag_of_expfield_pos h, hpow, Nat.cast_mul, mul_div_assoc, mul_assoc]
  push_cast
  rfl

/-! ### The class of a pattern (R57) -/

theorem isFinite_iff_expfield (w : Word) : isFinite w = true ↔ (expfield w).toNat ≠ 2047 := by
  simp [isFinite, BitVec.toNat_eq]

theorem isSubnormal_iff_fields (w : Word) :
    isSubnormal w = true ↔ (expfield w).toNat = 0 ∧ (mant w).toNat ≠ 0 := by
  simp [isSubnormal, BitVec.toNat_eq]

theorem isInf_iff_fields (w : Word) : isInf w = true ↔ (expfield w).toNat = 2047 ∧ (mant w).toNat = 0 := by
  simp [isInf, BitVec.toNat_eq]

theorem isNaN_iff_fields (w : Word) : isNaN w = true ↔ (expfield w).toNat = 2047 ∧ (mant w).toNat ≠ 0 := by
  simp [isNaN, BitVec.toNat_eq]

/-- The quiet bit is the mantissa field's highest (R55). -/
theorem isQuietNaN_iff (w : Word) : isQuietNaN w = true ↔ isNaN w = true ∧ 2 ^ 51 ≤ (mant w).toNat := by
  have hbit : w.getLsbD 51 = true ↔ 2 ^ 51 ≤ (mant w).toNat := by
    rw [mant_toNat, BitVec.getLsbD, Nat.testBit_eq_decide_div_mod_eq, decide_eq_true_iff]
    omega
  rw [isQuietNaN, Bool.and_eq_true, hbit]

/-- Two patterns that differ in nothing but the sign are the only ones with their low bits. -/
theorem low_eq_low_iff {p n w : Word} (hp : sign p = false) (hn : sign n = true) (hlow : low n = low p) :
    low w = low p ↔ w = p ∨ w = n := by
  constructor
  · intro h
    cases hw : sign w
    · exact .inl (word_ext (hw.trans hp.symm) h)
    · exact .inr (word_ext (hw.trans hn.symm) (h.trans hlow.symm))
  · rintro (rfl | rfl)
    · rfl
    · exact hlow

theorem isZero_iff_eq (w : Word) : isZero w = true ↔ w = posZero ∨ w = negZero := by
  rw [isZero_iff]
  exact low_eq_low_iff (p := posZero) (by decide) (by decide) (by decide)

theorem isInf_iff_eq (w : Word) : isInf w = true ↔ w = posInf ∨ w = negInf := by
  rw [isInf_iff]
  exact low_eq_low_iff (p := posInf) (by decide) (by decide) (by decide)

/-- Settles O26: the value of a pattern by its exponent field, then each class by its fields. -/
theorem patternValues : Obligations.PatternValues := fun w =>
  ⟨value_of_expfield_zero, fun h _ => value_of_expfield_pos h, isFinite_iff_expfield w, isSubnormal_iff_fields w,
    isInf_iff_fields w, isNaN_iff_fields w, isZero_iff_eq w, isQuietNaN_iff w⟩

/-! ### The recomposers (R60) -/

/-- The fields of a pattern put together from a positive sign, an exponent field and a mantissa field. -/
theorem toNat_recomposed (e : BitVec 11) (m : BitVec 52) :
    ((0#1 ++ e) ++ m : Word).toNat = e.toNat * 2 ^ 52 + m.toNat := by
  rw [BitVec.toNat_append, ← Nat.shiftLeft_add_eq_or_of_lt m.isLt, BitVec.toNat_append, Nat.shiftLeft_eq]
  simp

theorem expfield_recomposed (e : BitVec 11) (m : BitVec 52) : expfield ((0#1 ++ e) ++ m : Word) = e := by
  apply BitVec.eq_of_toNat_eq
  rw [expfield_toNat, toNat_recomposed]
  omega

theorem mant_recomposed (e : BitVec 11) (m : BitVec 52) : mant ((0#1 ++ e) ++ m : Word) = m := by
  apply BitVec.eq_of_toNat_eq
  rw [mant_toNat, toNat_recomposed]
  omega

theorem sign_recomposed (e : BitVec 11) (m : BitVec 52) : sign ((0#1 ++ e) ++ m : Word) = false := by
  rw [sign_eq, toNat_recomposed, decide_eq_false_iff_not]
  omega

theorem value_recomposed {e : BitVec 11} (m : BitVec 52) (he : 1 ≤ e.toNat) :
    value ((0#1 ++ e) ++ m : Word) = (2 ^ 52 + m.toNat) * (2 : ℚ) ^ ((e.toNat : ℤ) - 1075) := by
  have h := value_of_expfield_pos (w := (0#1 ++ e) ++ m) (by rwa [expfield_recomposed])
  rwa [expfield_recomposed, mant_recomposed, signFactor, sign_recomposed, if_neg Bool.false_ne_true, one_mul] at h

/-- The exponent field of `pow2i` in its range (R60 a). -/
theorem toNat_pow2iField {k : ℤ} (hlo : -1022 ≤ k) (hhi : k ≤ 1023) :
    ((BitVec.ofInt 11 (k + 1023)).toNat : ℤ) = k + 1023 := by
  rw [BitVec.toNat_ofInt]
  omega

theorem toNat_pow2i {k : ℤ} (hlo : -1022 ≤ k) (hhi : k ≤ 1023) : ((pow2i k).toNat : ℤ) = (k + 1023) * 2 ^ 52 := by
  have := toNat_pow2iField hlo hhi
  rw [pow2i, toNat_recomposed, BitVec.toNat_zero]
  omega

theorem value_pow2i {k : ℤ} (hlo : -1022 ≤ k) (hhi : k ≤ 1023) : value (pow2i k) = (2 : ℚ) ^ k := by
  have he := toNat_pow2iField hlo hhi
  rw [pow2i, value_recomposed _ (by omega), he, BitVec.toNat_zero, Nat.cast_zero, add_zero, ← zpow_ofNat,
    ← zpow_add₀ two_ne_zero]
  congr 1
  ring

theorem isFinite_pow2i {k : ℤ} (hlo : -1022 ≤ k) (hhi : k ≤ 1023) : isFinite (pow2i k) = true := by
  have he := toNat_pow2iField hlo hhi
  rw [isFinite_iff_expfield, pow2i, expfield_recomposed]
  omega

/-- R60 (b) as the spec words it: the mantissa bits of `b` under the exponent field of 1.0. -/
theorem normmant_eq_masked (b : Word) : normmant b = (b &&& 0x000FFFFFFFFFFFFF#64) ||| 0x3FF0000000000000#64 := by
  apply BitVec.eq_of_toNat_eq
  have hmask : b.toNat &&& 0x000FFFFFFFFFFFFF = (mant b).toNat := by
    rw [mant_toNat, show 0x000FFFFFFFFFFFFF = 2 ^ 52 - 1 by norm_num, Nat.and_two_pow_sub_one_eq_mod]
  have hor := Nat.shiftLeft_add_eq_or_of_lt (mant b).isLt 1023
  rw [normmant, toNat_recomposed, BitVec.toNat_or, BitVec.toNat_and, BitVec.toNat_ofNat, BitVec.toNat_ofNat,
    BitVec.toNat_ofNat, Nat.or_comm]
  rw [Nat.shiftLeft_eq] at hor
  exact hor.trans (by rw [← hmask])

theorem value_normmant (b : Word) : value (normmant b) = 1 + ((mant b).toNat : ℚ) / 2 ^ 52 := by
  rw [normmant, value_recomposed _ (by decide)]
  norm_num
  ring

theorem isFinite_normmant (b : Word) : isFinite (normmant b) = true := by
  rw [isFinite_iff_expfield, normmant, expfield_recomposed]
  decide

theorem value_normmant_lt_two (b : Word) : value (normmant b) < 2 := by
  have hm : ((mant b).toNat : ℚ) < 2 ^ 52 := by exact_mod_cast (mant b).isLt
  have : ((mant b).toNat : ℚ) / 2 ^ 52 < 1 := (div_lt_one (by positivity)).2 hm
  rw [value_normmant]
  linarith

theorem one_le_value_normmant (b : Word) : 1 ≤ value (normmant b) := by
  rw [value_normmant, le_add_iff_nonneg_right]
  positivity

/-- Settles O27: both recomposers, by the fields they are put together from. -/
theorem recomposersBuildPowerAndMantissa : Obligations.RecomposersBuildPowerAndMantissa :=
  ⟨fun _ hlo hhi => ⟨toNat_pow2i hlo hhi, value_pow2i hlo hhi, isFinite_pow2i hlo hhi⟩,
    fun b => ⟨normmant_eq_masked b, sign_recomposed _ _, isFinite_normmant b, value_normmant b,
      one_le_value_normmant b, value_normmant_lt_two b⟩⟩

/-! ### Negation (R66) -/

theorem getLsbD_fneg (x : Word) {i : Nat} (hi : i < 63) : (fneg x).getLsbD i = x.getLsbD i := by
  have h : ((fneg x).toNat % 2 ^ 63).testBit i = (x.toNat % 2 ^ 63).testBit i := by
    rw [← low_eq, ← low_eq, low_fneg]
  rwa [Nat.testBit_mod_two_pow, Nat.testBit_mod_two_pow, decide_eq_true hi, Bool.true_and, Bool.true_and] at h

/-- Settles O34: the sign is inverted, the 63 low bits stay. -/
theorem negationInvertsTheSignBit : Obligations.NegationInvertsTheSignBit := fun x =>
  ⟨sign_fneg x, fun _ => getLsbD_fneg x, value_fneg x⟩

end Sys2Proof
end

section
/-!
PROOFS. Order (spec R67, R78): magnitudes are ordered as their 63 low bits, the four comparisons are those of the extended
real values, and the command domains are intervals of them.
-/

namespace Sys2Proof

open Sys2Proof.Machine

/-! ### The order of the magnitudes -/

/-- The significand of a pattern's own magnitude, below `2^53`. -/
theorem exists_isSignificand (w : Word) :
    ∃ s n, IsSignificand s n ∧ n < 2 ^ 53 ∧ low w = s * 2 ^ 52 + n ∧ mag w = n * 2 ^ s := by
  have hsig : IsSignificand (low w / 2 ^ 52 - 1) (low w - (low w / 2 ^ 52 - 1) * 2 ^ 52) := ⟨by omega, by omega⟩
  have hlow : low w = (low w / 2 ^ 52 - 1) * 2 ^ 52 + (low w - (low w / 2 ^ 52 - 1) * 2 ^ 52) := by omega
  exact ⟨_, _, hsig, by omega, hlow, mag_of_low hsig hlow⟩

/-- From one pattern to any higher one the magnitude grows by the lower one's last place, at least. -/
theorem succ_mul_two_pow_le {s n s' n' : Nat} (hn : IsSignificand s n) (hn' : IsSignificand s' n') (hlt : n < 2 ^ 53)
    (hlow : s * 2 ^ 52 + n < s' * 2 ^ 52 + n') : (n + 1) * 2 ^ s ≤ n' * 2 ^ s' := by
  obtain ⟨-, hnormal⟩ := hn
  obtain ⟨hle', hnormal'⟩ := hn'
  obtain hs | rfl | hs := lt_trichotomy s s'
  · calc (n + 1) * 2 ^ s ≤ 2 ^ 53 * 2 ^ s := Nat.mul_le_mul_right _ hlt
      _ = 2 ^ 52 * 2 ^ (s + 1) := by ring
      _ ≤ n' * 2 ^ s' := Nat.mul_le_mul (by omega) (Nat.pow_le_pow_right two_pos hs)
  · exact Nat.mul_le_mul_right _ (by omega)
  · omega

theorem mag_eq_mag {v w : Word} (h : low v = low w) : mag v = mag w := by rw [mag_eq, mag_eq, h]

theorem mag_lt_mag {v w : Word} (h : low v < low w) : mag v < mag w := by
  obtain ⟨s, n, hsig, hlt, hlow, hmag⟩ := exists_isSignificand v
  obtain ⟨s', n', hsig', -, hlow', hmag'⟩ := exists_isSignificand w
  rw [hmag, hmag']
  exact (Nat.mul_lt_mul_of_pos_right n.lt_succ_self (by positivity)).trans_le
    (succ_mul_two_pow_le hsig hsig' hlt (by rwa [← hlow, ← hlow']))

theorem mag_le_mag {v w : Word} (h : low v ≤ low w) : mag v ≤ mag w :=
  h.lt_or_eq.elim (fun h => (mag_lt_mag h).le) (fun h => (mag_eq_mag h).le)

theorem mag_eq_zero_iff (w : Word) : mag w = 0 ↔ isZero w = true := by
  have hzero : low posZero = 0 ∧ mag posZero = 0 := by decide
  rw [isZero_iff]
  constructor
  · intro h
    by_contra h0
    have := mag_lt_mag (v := posZero) (w := w) (by omega)
    omega
  · intro h
    rw [mag_eq_mag (w := posZero) (by omega), hzero.2]

theorem natAbs_units (w : Word) : (units w).natAbs = mag w := by
  unfold units
  split <;> simp

theorem units_eq_zero_iff (w : Word) : units w = 0 ↔ isZero w = true := by
  rw [← mag_eq_zero_iff, ← natAbs_units, Int.natAbs_eq_zero]

/-- The values of two patterns stand as their numbers of units do (R55). -/
theorem value_le_value_iff (x y : Word) : value x ≤ value y ↔ units x ≤ units y := by
  rw [value, value, div_le_div_iff_of_pos_right (by positivity), Int.cast_le]

theorem value_eq_zero_iff (w : Word) : value w = 0 ↔ isZero w = true := by
  rw [← units_eq_zero_iff, value, div_eq_zero_iff, or_iff_left (by positivity), Int.cast_eq_zero]

theorem mag_pos {w : Word} (h : isZero w = false) : 0 < mag w := by
  rw [Nat.pos_iff_ne_zero, ne_eq, mag_eq_zero_iff, h]
  exact Bool.false_ne_true

theorem value_neg_iff {w : Word} (h : isZero w = false) : value w < 0 ↔ sign w = true := by
  have hpos : (0 : ℚ) < (mag w : ℚ) / 2 ^ 1074 := div_pos (by exact_mod_cast mag_pos h) (by positivity)
  rw [value_eq, signFactor]
  cases sign w
  · simpa using hpos.le
  · simpa using hpos

theorem value_pos_iff {w : Word} (h : isZero w = false) : 0 < value w ↔ sign w = false := by
  have hne : value w ≠ 0 := by rw [ne_eq, value_eq_zero_iff, h]; exact Bool.false_ne_true
  rw [← Bool.not_eq_true, ← value_neg_iff h, not_lt]
  exact ⟨le_of_lt, fun hle => lt_of_le_of_ne hle hne.symm⟩

/-! ### Finite patterns, zeros, infinities and NaNs -/

theorem not_isInf_of_isFinite {w : Word} (h : isFinite w = true) : isInf w = false := by
  rw [isFinite_iff] at h
  rw [← Bool.not_eq_true, isInf_iff]
  omega

theorem not_isNaN_of_isFinite {w : Word} (h : isFinite w = true) : isNaN w = false := by
  rw [isFinite_iff] at h
  rw [← Bool.not_eq_true, isNaN_iff]
  omega

theorem not_isNaN_of_isInf {w : Word} (h : isInf w = true) : isNaN w = false := by
  rw [isInf_iff] at h
  rw [← Bool.not_eq_true, isNaN_iff]
  omega

theorem isFinite_of_isZero {w : Word} (h : isZero w = true) : isFinite w = true := by
  rw [isZero_iff] at h
  rw [isFinite_iff]
  omega

theorem not_isZero_of_isInf {w : Word} (h : isInf w = true) : isZero w = false := by
  rw [isInf_iff] at h
  rw [← Bool.not_eq_true, isZero_iff]
  omega

theorem not_isNaN_of_isZero {w : Word} (h : isZero w = true) : isNaN w = false :=
  not_isNaN_of_isFinite (isFinite_of_isZero h)

theorem not_isInf_of_isZero {w : Word} (h : isZero w = true) : isInf w = false :=
  not_isInf_of_isFinite (isFinite_of_isZero h)

theorem eq_of_isInf {x y : Word} (hx : isInf x = true) (hy : isInf y = true) (hs : sign x = sign y) : x = y :=
  word_ext hs (((isInf_iff x).1 hx).trans ((isInf_iff y).1 hy).symm)

theorem eq_of_isZero {x y : Word} (hx : isZero x = true) (hy : isZero y = true) (hs : sign x = sign y) : x = y :=
  word_ext hs (((isZero_iff x).1 hx).trans ((isZero_iff y).1 hy).symm)

theorem not_isFinite_of_isNaN {w : Word} (h : isNaN w = true) : isFinite w = false := by
  rw [isNaN_iff] at h
  rw [← Bool.not_eq_true, isFinite_iff]
  omega

theorem not_isInf_of_isNaN {w : Word} (h : isNaN w = true) : isInf w = false := by
  rw [isNaN_iff] at h
  rw [← Bool.not_eq_true, isInf_iff]
  omega

theorem isFinite_or_isInf {w : Word} (h : isNaN w = false) : isFinite w = true ∨ isInf w = true := by
  rw [← Bool.not_eq_true, isNaN_iff] at h
  rw [isFinite_iff, isInf_iff]
  omega

theorem mag_lt_of_isFinite_isInf {v w : Word} (hv : isFinite v = true) (hw : isInf w = true) : mag v < mag w :=
  mag_lt_mag (by rwa [(isInf_iff w).1 hw, ← isFinite_iff])

theorem mag_eq_of_isInf {v w : Word} (hv : isInf v = true) (hw : isInf w = true) : mag v = mag w :=
  mag_eq_mag (((isInf_iff v).1 hv).trans ((isInf_iff w).1 hw).symm)

theorem units_of_sign_false {w : Word} (h : sign w = false) : units w = mag w := by simp [units, h]
theorem units_of_sign_true {w : Word} (h : sign w = true) : units w = -mag w := by simp [units, h]

/-! ### Extended real values (R67) -/

theorem extended_of_isFinite {w : Word} (h : isFinite w = true) :
    extended w = ((value w : WithTop ℚ) : WithBot (WithTop ℚ)) := by
  simp [extended, not_isInf_of_isFinite h]

theorem extended_of_isInf {w : Word} (h : isInf w = true) :
    extended w = if sign w then ⊥ else ((⊤ : WithTop ℚ) : WithBot (WithTop ℚ)) := if_pos h

/-- The order of the extended values is the order of the units, in which an infinity lies beyond all finite values. -/
theorem extended_le_iff {x y : Word} (hx : isNaN x = false) (hy : isNaN y = false) :
    extended x ≤ extended y ↔ units x ≤ units y := by
  have hmx := natAbs_units x
  have hmy := natAbs_units y
  obtain hx | hx := isFinite_or_isInf hx <;> obtain hy | hy := isFinite_or_isInf hy
  · rw [extended_of_isFinite hx, extended_of_isFinite hy, ← value_le_value_iff]
    simp
  · have hlt := mag_lt_of_isFinite_isInf hx hy
    rw [extended_of_isFinite hx, extended_of_isInf hy]
    cases hs : sign y
    · have hu := units_of_sign_false hs
      exact iff_of_true (by simp) (by omega)
    · have hu := units_of_sign_true hs
      exact iff_of_false (by simp) (by omega)
  · have hlt := mag_lt_of_isFinite_isInf hy hx
    rw [extended_of_isInf hx, extended_of_isFinite hy]
    cases hs : sign x
    · have hu := units_of_sign_false hs
      exact iff_of_false (by simp) (by omega)
    · have hu := units_of_sign_true hs
      exact iff_of_true (by simp) (by omega)
  · have heq := mag_eq_of_isInf hx hy
    have hpos := mag_lt_of_isFinite_isInf (v := posZero) (by decide) hy
    rw [extended_of_isInf hx, extended_of_isInf hy]
    cases hs : sign x <;> cases ht : sign y <;> simp [units, hs, ht]
    all_goals omega

theorem extended_lt_iff {x y : Word} (hx : isNaN x = false) (hy : isNaN y = false) :
    extended x < extended y ↔ units x < units y := by
  rw [← not_le, extended_le_iff hy hx, not_le]

theorem extended_eq_iff {x y : Word} (hx : isNaN x = false) (hy : isNaN y = false) :
    extended x = extended y ↔ units x = units y := by
  rw [le_antisymm_iff, le_antisymm_iff, extended_le_iff hx hy, extended_le_iff hy hx]

/-! ### The four comparisons (R67) -/

theorem ordered_iff (x y : Word) : ordered x y = true ↔ isNaN x = false ∧ isNaN y = false := by
  simp [ordered]

theorem not_ordered_of_isNaN {x y : Word} (h : isNaN x = true ∨ isNaN y = true) : ordered x y = false := by
  obtain h | h := h <;> simp [ordered, h]

theorem fle_iff (x y : Word) : fle x y = true ↔ isNaN x = false ∧ isNaN y = false ∧ extended x ≤ extended y := by
  rw [fle, Bool.and_eq_true, ordered_iff, decide_eq_true_iff, and_assoc]
  exact and_congr_right fun hx => and_congr_right fun hy => (extended_le_iff hx hy).symm

/-- Settles O35: a comparison is false unless both operands are ordered, and then compares units. -/
theorem comparisonsAreOfExtendedReals : Obligations.ComparisonsAreOfExtendedReals := by
  refine fun x y => ⟨fun h => ?_, fun hx hy => ?_⟩
  · have := not_ordered_of_isNaN h
    simp [flt, fle, fgt, feq, this]
  · have := (ordered_iff x y).2 ⟨hx, hy⟩
    rw [extended_lt_iff hx hy, extended_le_iff hx hy, extended_lt_iff hy hx, extended_eq_iff hx hy]
    simp [flt, fle, fgt, feq, this]

/-! ### The literals of the pseudocode (R8) -/

theorem value_posZero : value posZero = 0 := by decide +kernel
theorem value_f0_25 : value f0_25 = 1 / 4 := by decide +kernel
theorem value_f0_5 : value f0_5 = 1 / 2 := by decide +kernel
theorem value_fm0_5 : value fm0_5 = -1 / 2 := by decide +kernel
theorem value_f0_75 : value f0_75 = 3 / 4 := by decide +kernel
theorem value_f1 : value f1 = 1 := by decide +kernel
theorem value_f2 : value f2 = 2 := by decide +kernel
theorem value_f3 : value f3 = 3 := by decide +kernel
theorem value_f4 : value f4 = 4 := by decide +kernel
theorem value_fm1022 : value fm1022 = -1022 := by decide +kernel
theorem value_f1023 : value f1023 = 1023 := by decide +kernel

theorem extended_posZero : extended posZero = 0 := by
  rw [extended_of_isFinite (by decide), value_posZero]
  rfl

/-! ### The command domains (R78) -/

/-- Between two finite bounds lie finite patterns only. -/
theorem fle_and_fle_iff {lo hi : Word} (hlo : isFinite lo = true) (hhi : isFinite hi = true) (a : Word) :
    (fle lo a && fle a hi) = true ↔ isFinite a = true ∧ value lo ≤ value a ∧ value a ≤ value hi := by
  rw [Bool.and_eq_true, fle_iff, fle_iff, extended_of_isFinite hlo, extended_of_isFinite hhi]
  constructor
  · rintro ⟨⟨-, ha, hle⟩, -, -, hge⟩
    obtain ha | ha := isFinite_or_isInf ha
    · rw [extended_of_isFinite ha] at hle hge
      exact ⟨ha, by simpa using hle, by simpa using hge⟩
    · rw [extended_of_isInf ha] at hle hge
      cases hs : sign a <;> simp [hs] at hle hge
  · rintro ⟨ha, hle, hge⟩
    have hnan := not_isNaN_of_isFinite ha
    rw [extended_of_isFinite ha]
    exact ⟨⟨not_isNaN_of_isFinite hlo, hnan, by simpa using hle⟩, hnan, not_isNaN_of_isFinite hhi, by simpa using hge⟩

theorem domFloor_iff (a : Word) : domFloor a = true ↔ isFinite a = true ∨ a = posInf ∨ a = negInf := by
  rw [domFloor, Bool.or_eq_true, isInf_iff_eq]

theorem domSinS1_iff (a : Word) : domSinS1 a = true ↔ isFinite a = true ∧ 0 ≤ value a ∧ value a ≤ 1 := by
  rw [domSinS1, fle_and_fle_iff (by decide) (by decide), value_posZero, value_f1]

theorem domSinS2_iff (a : Word) : domSinS2 a = true ↔ isFinite a = true ∧ 0 ≤ value a ∧ value a ≤ 1 / 4 := by
  rw [domSinS2, fle_and_fle_iff (by decide) (by decide), value_posZero, value_f0_25]

theorem domExp2S1_iff (a : Word) : domExp2S1 a = true ↔ isFinite a = true ∧ -1 / 2 ≤ value a ∧ value a ≤ 1 / 2 := by
  rw [domExp2S1, fle_and_fle_iff (by decide) (by decide), value_fm0_5, value_f0_5]

theorem domLog2S1_iff (a : Word) : domLog2S1 a = true ↔ isFinite a = true ∧ 1 ≤ value a ∧ value a ≤ 2 := by
  rw [domLog2S1, fle_and_fle_iff (by decide) (by decide), value_f1, value_f2]

theorem domAtan_iff (a : Word) : domAtan a = true ↔ isNaN a = false := by
  rw [domAtan, Bool.not_eq_true']

theorem domAtanS2_iff (a : Word) : domAtanS2 a = true ↔ isNaN a = false ∧ 0 ≤ extended a := by
  rw [domAtanS2, fle_iff, extended_posZero]
  exact and_iff_right (by decide)

theorem domAtanS1_iff (c : Cfg) (a : Word) : domAtanS1 c a = true ↔ isNaN a = false ∧ isNaN c.atanX[0] = false ∧
    0 ≤ extended a ∧ extended a ≤ extended c.atanX[0] := by
  rw [domAtanS1, ← domAtanS2, Bool.and_eq_true, domAtanS2_iff, fle_iff]
  tauto

/-- Settles O60: each row of the table of R78. -/
theorem commandDomainsAreTheIntervals : Obligations.CommandDomainsAreTheIntervals := fun c a _ =>
  ⟨⟨rfl, domFloor_iff a⟩, ⟨rfl, domSinS1_iff a⟩, ⟨rfl, domSinS2_iff a⟩, ⟨rfl, domSinS1_iff a⟩, Iff.rfl, Iff.rfl,
    ⟨rfl, domAtanS1_iff c a⟩, ⟨rfl, domAtanS2_iff a⟩, domAtan_iff a, Bool.and_eq_true_iff, ⟨rfl, domExp2S1_iff a⟩,
    domAtan_iff a, Iff.rfl, ⟨rfl, domLog2S1_iff a⟩, Iff.rfl, Iff.rfl⟩

end Sys2Proof
end

section
/-!
PROOFS. The four operations (spec R61 to R65): each special case by the classes of the operands, and the rounded exact
result of two finite operands.
-/

namespace Sys2Proof

open Sys2Proof.Machine

/-! ### The rounding function (R61) -/

theorem cast_oneUnits : (oneUnits : ℚ) = 2 ^ 1074 := by rw [oneUnits, Nat.cast_pow, Nat.cast_ofNat]

theorem oneUnits_pos : 0 < oneUnits := by
  unfold oneUnits
  positivity

/-- Settles O28: the relation of R61 holds of every sign and every positive number of units. -/
theorem roundingIsToNearestEven : Obligations.RoundingIsToNearestEven := by
  intro neg p q hp hq
  have hpos : (0 : ℚ) < (p : ℚ) / q / 2 ^ 1074 := by positivity
  rw [mul_div_assoc]
  cases neg
  · exact roundsTo_fround hp hq (by simp [abs_of_pos hpos]) (by simp [hpos.le])
  · exact roundsTo_fround hp hq (by simp [abs_of_pos hpos]) (by simp [hpos])

/-- Settles O29: the pattern is the model's rounding of its own value. -/
theorem representableValuesRoundToThemselves : Obligations.RepresentableValuesRoundToThemselves := by
  intro w hfin hzero
  have hround := roundsTo_fround (r := value w) (neg := sign w) (mag_pos hzero) one_pos
    (by rw [abs_value, Nat.cast_one, div_one]) (by rw [Bool.eq_iff_iff, decide_eq_true_iff, value_neg_iff hzero])
  rwa [fround_mag hfin] at hround

/-! ### Addition and subtraction (R62, R63) -/

section Operations

variable {nan x y : Word}

theorem fadd_of_isInf_of_sign_ne (hx : isInf x = true) (hy : isInf y = true) (hs : sign x ≠ sign y) :
    fadd nan x y = nan := by
  simp [fadd, not_isNaN_of_isInf, hx, hy, hs]

theorem fadd_of_isInf_of_sign_eq (hx : isInf x = true) (hy : isInf y = true) (hs : sign x = sign y) :
    fadd nan x y = x := by
  simp [fadd, not_isNaN_of_isInf, hx, hy, hs]

theorem fadd_of_isInf_left (hx : isInf x = true) (hy : isFinite y = true) : fadd nan x y = x := by
  simp [fadd, not_isNaN_of_isInf, not_isNaN_of_isFinite, not_isInf_of_isFinite, hx, hy]

theorem fadd_of_isInf_right (hx : isFinite x = true) (hy : isInf y = true) : fadd nan x y = y := by
  simp [fadd, not_isNaN_of_isInf, not_isNaN_of_isFinite, not_isInf_of_isFinite, hx, hy]

theorem fadd_of_isZero (hx : isZero x = true) (hy : isZero y = true) :
    fadd nan x y = if sign x = sign y then x else posZero := by
  simp [fadd, not_isNaN_of_isZero, not_isInf_of_isZero, hx, hy]

/-- Two finite operands that are not both zeros are added by their units. -/
theorem fadd_of_isFinite (hx : isFinite x = true) (hy : isFinite y = true) (hz : isZero x = false ∨ isZero y = false) :
    fadd nan x y = if units x + units y = 0 then posZero
      else fround (decide (units x + units y < 0)) (units x + units y).natAbs 1 := by
  have hz : (isZero x && isZero y) = false := by rwa [Bool.and_eq_false_iff]
  simp [fadd, not_isNaN_of_isFinite, not_isInf_of_isFinite, hx, hy, hz]

theorem value_add (x y : Word) : value x + value y = (units x + units y : ℤ) / 2 ^ 1074 := by
  rw [value, value, ← add_div, Int.cast_add]

theorem value_add_eq_zero_iff (x y : Word) : value x + value y = 0 ↔ units x + units y = 0 := by
  rw [value_add, div_eq_zero_iff, or_iff_left (by positivity), Int.cast_eq_zero]

theorem not_isZero_of_value_add_ne_zero (h : value x + value y ≠ 0) : isZero x = false ∨ isZero y = false := by
  by_contra hc
  simp only [not_or, Bool.not_eq_false, ← value_eq_zero_iff] at hc
  exact h (by rw [hc.1, hc.2, add_zero])

/-- The sum that the model rounds when it is not zero. -/
theorem fadd_of_value_add_ne_zero (hx : isFinite x = true) (hy : isFinite y = true) (h : value x + value y ≠ 0) :
    fadd nan x y = fround (decide (units x + units y < 0)) (units x + units y).natAbs 1 := by
  rw [fadd_of_isFinite hx hy (not_isZero_of_value_add_ne_zero h), if_neg (mt (value_add_eq_zero_iff x y).2 h)]

theorem roundsTo_fadd (hx : isFinite x = true) (hy : isFinite y = true) (h : value x + value y ≠ 0) :
    RoundsTo (value x + value y) (fadd nan x y) := by
  rw [fadd_of_value_add_ne_zero hx hy h]
  refine roundsTo_fround (Int.natAbs_pos.2 (mt (value_add_eq_zero_iff x y).2 h)) one_pos ?_ ?_
  · rw [value_add, abs_div, abs_of_pos (a := (2 : ℚ) ^ 1074) (by positivity), Nat.cast_natAbs, Int.cast_abs,
      Nat.cast_one, div_one]
  · rw [value_add, decide_eq_decide, div_lt_iff₀ (by positivity), zero_mul, Int.cast_lt_zero]

theorem fadd_of_value_add_eq_zero (hx : isFinite x = true) (hy : isFinite y = true) (hz : isZero x = false)
    (h : value x + value y = 0) : fadd nan x y = posZero := by
  rw [fadd_of_isFinite hx hy (.inl hz), if_pos ((value_add_eq_zero_iff x y).1 h)]

theorem fsub_self (hx : isFinite x = true) : fsub nan x x = posZero := by
  have hy : isFinite (fneg x) = true := (isFinite_fneg x).trans hx
  cases hz : isZero x
  · exact fadd_of_value_add_eq_zero hx hy hz (by rw [value_fneg, add_neg_cancel])
  · rw [fsub, fadd_of_isZero hz ((isZero_fneg x).trans hz), sign_fneg, if_neg (by simp)]

theorem fsub_negZero_posZero : fsub nan negZero posZero = negZero := by
  rw [fsub, fadd_of_isZero (by decide) (by decide), if_pos (by decide)]

theorem roundsTo_fsub (hx : isFinite x = true) (hy : isFinite y = true) (h : value x ≠ value y) :
    RoundsTo (value x - value y) (fsub nan x y) := by
  rw [fsub, sub_eq_add_neg, ← value_fneg]
  exact roundsTo_fadd hx ((isFinite_fneg y).trans hy) (by rwa [value_fneg, ← sub_eq_add_neg, sub_ne_zero])

end Operations

/-- Settles O30: the special operands, then the exact sum by its units. -/
theorem additionIsTheRoundedSum : Obligations.AdditionIsTheRoundedSum := fun _ _ _ =>
  ⟨fun h => h.elim fadd_drawsNaN.of_nan_left fadd_drawsNaN.of_nan_right,
    fadd_of_isInf_of_sign_ne,
    fun hx hy hs => ⟨fadd_of_isInf_of_sign_eq hx hy hs, eq_of_isInf hx hy hs⟩,
    fadd_of_isInf_left,
    fadd_of_isInf_right,
    fun hx hy hs => ⟨(fadd_of_isZero hx hy).trans (if_pos hs), eq_of_isZero hx hy hs⟩,
    fun hx hy hs => (fadd_of_isZero hx hy).trans (if_neg hs),
    fadd_of_value_add_eq_zero,
    roundsTo_fadd⟩

/-- Settles O31: subtraction is the addition of the negation. -/
theorem subtractionAddsTheNegation : Obligations.SubtractionAddsTheNegation :=
  ⟨fun _ _ _ => rfl, fun _ _ => fsub_self, fun _ => fsub_negZero_posZero, fun _ _ _ => roundsTo_fsub⟩

/-! ### Multiplication and division (R64, R65) -/

section Operations

variable {nan x y : Word}

theorem fmul_of_isInf (h : isInf x = true ∨ isInf y = true) (hnx : isNaN x = false) (hny : isNaN y = false)
    (hzx : isZero x = false) (hzy : isZero y = false) :
    fmul nan x y = if sign x ^^ sign y then negInf else posInf := by
  have h : (isInf x || isInf y) = true := by rwa [Bool.or_eq_true]
  simp only [fmul, hnx, hny, hzx, hzy, h, Bool.or_false, Bool.and_false, Bool.false_and, Bool.false_eq_true, if_false,
    if_true]

theorem fmul_of_isZero (h : isZero x = true ∨ isZero y = true) (hx : isFinite x = true) (hy : isFinite y = true) :
    fmul nan x y = if sign x ^^ sign y then negZero else posZero := by
  have h : (isZero x || isZero y) = true := by rwa [Bool.or_eq_true]
  simp only [fmul, not_isNaN_of_isFinite, not_isInf_of_isFinite, hx, hy, h, Bool.or_false, Bool.and_false,
    Bool.false_and, Bool.false_eq_true, if_false, if_true]

theorem fmul_of_isFinite (hx : isFinite x = true) (hy : isFinite y = true) (hzx : isZero x = false)
    (hzy : isZero y = false) : fmul nan x y = fround (sign x ^^ sign y) (mag x * mag y) oneUnits := by
  simp [fmul, not_isNaN_of_isFinite, not_isInf_of_isFinite, hx, hy, hzx, hzy]

theorem fdiv_of_isInf_or_isZero (h : isInf x = true ∧ isFinite y = true ∨
    isFinite x = true ∧ isZero x = false ∧ isZero y = true) :
    fdiv nan x y = if sign x ^^ sign y then negInf else posInf := by
  obtain ⟨hx, hy⟩ | ⟨hx, hzx, hzy⟩ := h
  · simp [fdiv, not_isNaN_of_isInf, not_isNaN_of_isFinite, not_isInf_of_isFinite, not_isZero_of_isInf, hx, hy]
  · simp [fdiv, not_isNaN_of_isZero, not_isNaN_of_isFinite, not_isInf_of_isFinite, hx, hzx, hzy]

theorem fdiv_of_isZero_left (hx : isZero x = true) (hny : isNaN y = false) (hzy : isZero y = false) :
    fdiv nan x y = if sign x ^^ sign y then negZero else posZero := by
  simp [fdiv, not_isNaN_of_isZero, not_isInf_of_isZero, hx, hny, hzy]

theorem fdiv_of_isInf_right (hx : isFinite x = true) (hy : isInf y = true) :
    fdiv nan x y = if sign x ^^ sign y then negZero else posZero := by
  simp [fdiv, not_isNaN_of_isInf, not_isNaN_of_isFinite, not_isInf_of_isFinite, not_isZero_of_isInf, hx, hy]

theorem fdiv_of_isFinite (hx : isFinite x = true) (hy : isFinite y = true) (hzx : isZero x = false)
    (hzy : isZero y = false) : fdiv nan x y = fround (sign x ^^ sign y) (mag x * oneUnits) (mag y) := by
  simp [fdiv, not_isNaN_of_isFinite, not_isInf_of_isFinite, hx, hy, hzx, hzy]

theorem roundsTo_fmul (hx : isFinite x = true) (hy : isFinite y = true) (hzx : isZero x = false)
    (hzy : isZero y = false) : RoundsTo (value x * value y) (fmul nan x y) := by
  rw [fmul_of_isFinite hx hy hzx hzy]
  refine roundsTo_fround (Nat.mul_pos (mag_pos hzx) (mag_pos hzy)) oneUnits_pos ?_ ?_
  · rw [abs_mul, abs_value, abs_value, Nat.cast_mul, cast_oneUnits, div_mul_div_comm, div_div]
  · rw [Bool.eq_iff_iff, decide_eq_true_iff, mul_neg_iff, value_pos_iff hzx, value_pos_iff hzy, value_neg_iff hzx,
      value_neg_iff hzy]
    cases sign x <;> simp

theorem roundsTo_fdiv (hx : isFinite x = true) (hy : isFinite y = true) (hzx : isZero x = false)
    (hzy : isZero y = false) : RoundsTo (value x / value y) (fdiv nan x y) := by
  rw [fdiv_of_isFinite hx hy hzx hzy]
  refine roundsTo_fround (Nat.mul_pos (mag_pos hzx) oneUnits_pos) (mag_pos hzy) ?_ ?_
  · rw [abs_div, abs_value, abs_value, Nat.cast_mul, cast_oneUnits, div_div_div_cancel_right₀ (by positivity),
      div_right_comm, mul_div_cancel_right₀ _ (by positivity)]
  · rw [Bool.eq_iff_iff, decide_eq_true_iff, div_neg_iff, value_pos_iff hzx, value_pos_iff hzy, value_neg_iff hzx,
      value_neg_iff hzy]
    cases sign x <;> simp

end Operations

/-- Settles O32: the special operands, then the exact product of the magnitudes. -/
theorem productIsTheRoundedProduct : Obligations.ProductIsTheRoundedProduct := by
  refine fun nan x y => ⟨fun h => h.elim fmul_drawsNaN.of_nan_left fmul_drawsNaN.of_nan_right, fun hx hy => ?_,
    fun hx hy => ?_, fmul_of_isInf, fmul_of_isZero, fun hx hy hzx hzy => ⟨roundsTo_fmul hx hy hzx hzy, ?_⟩⟩
  · simp [fmul, hx, hy]
  · simp [fmul, hx, hy]
  · rw [fmul_of_isFinite hx hy hzx hzy, sign_fround]

/-- Settles O33: the special operands, then the exact quotient of the magnitudes. -/
theorem quotientIsTheRoundedQuotient : Obligations.QuotientIsTheRoundedQuotient := by
  refine fun nan x y => ⟨fun h => h.elim fdiv_drawsNaN.of_nan_left fdiv_drawsNaN.of_nan_right, fun hx hy => ?_,
    fun hx hy => ?_, fun hx hy => fdiv_of_isInf_or_isZero (.inl ⟨hx, hy⟩),
    fun hx hzx hzy => fdiv_of_isInf_or_isZero (.inr ⟨hx, hzx, hzy⟩), fdiv_of_isZero_left, fdiv_of_isInf_right,
    fun hx hy hzx hzy => ⟨roundsTo_fdiv hx hy hzx hzy, ?_⟩⟩
  · simp [fdiv, hx, hy]
  · simp [fdiv, hx, hy]
  · rw [fdiv_of_isFinite hx hy hzx hzy, sign_fround]

end Sys2Proof
end

section
/-!
PROOFS. What is computed exactly (spec R68 to R70, R72): a magnitude with a significand of at most 53 bits rounds to
itself, so truncation and the conversions of small integers are exact; and the order of Horner's steps.
-/

namespace Sys2Proof

open Sys2Proof.Machine

/-! ### A representable magnitude is not rounded (R61) -/

theorem two_pow_ulpShift_dvd {s n : Nat} (hn : n ≤ 2 ^ 53) : 2 ^ ulpShift (n * 2 ^ s) 1 ∣ n * 2 ^ s := by
  obtain hzero | hle := le_of_ulpShift (n * 2 ^ s) one_pos
  · rw [hzero, pow_zero]
    exact one_dvd _
  · have hbound : 2 ^ 52 * 2 ^ ulpShift (n * 2 ^ s) 1 ≤ n * 2 ^ s := by rwa [one_mul] at hle
    generalize ulpShift (n * 2 ^ s) 1 = t at hbound
    obtain hts | hts := Nat.lt_or_ge s t
    · have htop : 2 ^ 53 * 2 ^ s ≤ n * 2 ^ s := calc
        2 ^ 53 * 2 ^ s = 2 ^ 52 * 2 ^ (s + 1) := by ring
        _ ≤ 2 ^ 52 * 2 ^ t := Nat.mul_le_mul_left _ (Nat.pow_le_pow_right two_pos hts)
        _ ≤ n * 2 ^ s := hbound
      obtain rfl : n = 2 ^ 53 := hn.antisymm (Nat.le_of_mul_le_mul_right htop (by positivity))
      have hpow : 52 + t ≤ 53 + s := by
        rwa [← pow_add, ← pow_add, Nat.pow_le_pow_iff_right one_lt_two] at hbound
      rw [← pow_add]
      exact pow_dvd_pow 2 (by omega)
    · exact Dvd.dvd.mul_left (pow_dvd_pow 2 hts) n

/-- A magnitude `n * 2^s` with `n` of at most 53 bits, below the overflow threshold, is its own rounding. -/
theorem fround_exact (neg : Bool) {s n : Nat} (hn : n ≤ 2 ^ 53) (hlt : n * 2 ^ s < 2 ^ (53 + 2045)) :
    isFinite (fround neg (n * 2 ^ s) 1) = true ∧ mag (fround neg (n * 2 ^ s) 1) = n * 2 ^ s := by
  obtain ⟨k, hk⟩ := two_pow_ulpShift_dvd (s := s) hn
  have hsig := nearestEven_isSignificand (n * 2 ^ s) one_pos
  generalize hm : n * 2 ^ s = m at *
  have hnear : nearestEven m (1 * 2 ^ ulpShift m 1) = k := by
    conv_lhs => arg 1; rw [hk, mul_comm]
    rw [one_mul]
    exact nearestEven_mul k _ (by positivity)
  rw [hnear] at hsig
  have hmag : k * 2 ^ ulpShift m 1 = m := (mul_comm _ _).trans hk.symm
  have hfits : ulpShift m 1 * 2 ^ 52 + k < 2047 * 2 ^ 52 := by
    rwa [← not_le, ← two_pow_le_iff hsig 2045, hmag, not_le]
  have hlow : low (fround neg m 1) = ulpShift m 1 * 2 ^ 52 + k := by
    rw [fround, roundMag, hnear, Nat.min_eq_left hfits.le, low_signed neg (by omega)]
  exact ⟨(isFinite_iff _).2 (hlow ▸ hfits), (mag_of_low hsig hlow).trans hmag⟩

theorem mag_lt_of_isFinite {w : Word} (h : isFinite w = true) : mag w < 2 ^ (53 + 2045) := by
  obtain ⟨s, n, hsig, -, hlow, hmag⟩ := exists_isSignificand w
  rwa [hmag, ← not_le, two_pow_le_iff hsig, not_le, ← hlow, ← isFinite_iff]

/-- A whole number of ones, of at most 53 bits (R69). -/
theorem fround_integer (neg : Bool) {n : Nat} (hn : n ≤ 2 ^ 53) :
    isFinite (fround neg (n * oneUnits) 1) = true ∧ mag (fround neg (n * oneUnits) 1) = n * oneUnits := by
  refine fround_exact neg hn ?_
  rw [pow_add 2 53 2045]
  refine Nat.mul_lt_mul_of_le_of_lt hn ?_ (by positivity)
  gcongr <;> norm_num

/-! ### Truncation (R68) -/

/-- A pattern whose value is no whole number has an integral part of at most 52 bits. -/
theorem oneUnits_dvd_mag_or_lt (w : Word) : oneUnits ∣ mag w ∨ mag w / oneUnits < 2 ^ 52 := by
  obtain ⟨s, n, -, hlt, -, hmag⟩ := exists_isSignificand w
  rw [hmag]
  obtain hs | hs := Nat.lt_or_ge s 1074
  · refine .inr ((Nat.div_lt_iff_lt_mul oneUnits_pos).2 ?_)
    calc n * 2 ^ s < 2 ^ 53 * 2 ^ s := Nat.mul_lt_mul_of_pos_right hlt (by positivity)
      _ = 2 ^ 52 * 2 ^ (s + 1) := by ring
      _ ≤ 2 ^ 52 * oneUnits := by rw [oneUnits]; gcongr; exacts [one_le_two, hs]
  · exact .inl (Dvd.dvd.mul_left (pow_dvd_pow 2 hs) n)

/-- The integral part of a finite pattern's magnitude is representable. -/
theorem fround_integralPart (neg : Bool) {w : Word} (h : isFinite w = true) :
    isFinite (fround neg (mag w / oneUnits * oneUnits) 1) = true ∧
    mag (fround neg (mag w / oneUnits * oneUnits) 1) = mag w / oneUnits * oneUnits := by
  obtain hdvd | hlt := oneUnits_dvd_mag_or_lt w
  · obtain ⟨s, n, -, hlt, -, hmag⟩ := exists_isSignificand w
    rw [Nat.div_mul_cancel hdvd, hmag]
    exact fround_exact neg hlt.le (hmag ▸ mag_lt_of_isFinite h)
  · exact fround_integer neg (by omega)

section Truncation

variable {nan x : Word}

theorem ftrunc_of_isNaN (h : isNaN x = true) : ftrunc nan x = nan := by simp [ftrunc, h]

theorem ftrunc_of_isInf_or_isZero (h : isInf x = true ∨ isZero x = true) : ftrunc nan x = x := by
  have hnan : isNaN x = false := h.elim not_isNaN_of_isInf not_isNaN_of_isZero
  have h : (isInf x || isZero x) = true := by rwa [Bool.or_eq_true]
  simp only [ftrunc, hnan, h, Bool.false_eq_true, if_false, if_true]

theorem ftrunc_of_isFinite (hx : isFinite x = true) (hz : isZero x = false) :
    ftrunc nan x = fround (sign x) (mag x / oneUnits * oneUnits) 1 := by
  simp [ftrunc, not_isNaN_of_isFinite hx, not_isInf_of_isFinite hx, hz]

/-- The truncation of a finite pattern: finite, of the same sign, its magnitude the integral part. -/
theorem ftrunc_spec (nan : Word) (hx : isFinite x = true) :
    isFinite (ftrunc nan x) = true ∧ sign (ftrunc nan x) = sign x ∧
    mag (ftrunc nan x) = mag x / oneUnits * oneUnits := by
  cases hz : isZero x
  · rw [ftrunc_of_isFinite hx hz]
    obtain ⟨hfin, hmag⟩ := fround_integralPart (sign x) hx
    exact ⟨hfin, sign_fround _ _ _, hmag⟩
  · rw [ftrunc_of_isInf_or_isZero (.inr hz), (mag_eq_zero_iff x).2 hz, Nat.zero_div, Nat.zero_mul]
    exact ⟨hx, rfl, rfl⟩

theorem floor_abs_value (x : Word) : ⌊|value x|⌋ = (mag x / oneUnits : ℕ) := by
  rw [abs_value, ← cast_oneUnits, Rat.floor_natCast_div_natCast, Int.natCast_div]

theorem value_ftrunc (nan : Word) (hx : isFinite x = true) :
    value (ftrunc nan x) = (if sign x then -1 else 1) * (⌊|value x|⌋ : ℚ) := by
  obtain ⟨-, hsign, hmag⟩ := ftrunc_spec nan hx
  rw [value_eq, signFactor, hsign, hmag, floor_abs_value, Nat.cast_mul, cast_oneUnits,
    mul_div_cancel_right₀ _ (by positivity), Int.cast_natCast]

end Truncation

/-- Settles O36: the special operands, then the integral part, which is representable. -/
theorem truncationIsExact : Obligations.TruncationIsExact := by
  refine fun nan x => ⟨ftrunc_of_isNaN, ftrunc_of_isInf_or_isZero, fun hx _ => ?_⟩
  obtain ⟨hfin, hsign, -⟩ := ftrunc_spec nan hx
  exact ⟨hfin, hsign, value_ftrunc nan hx⟩

/-! ### The conversions of small integers (R69, R70) -/

theorem natAbs_le_of_abs_le {n : ℤ} (h : |n| ≤ 2 ^ 53) : n.natAbs ≤ 2 ^ 53 := by
  rw [Int.abs_eq_natAbs] at h
  exact_mod_cast h

theorem isFinite_i2f {n : ℤ} (h : |n| ≤ 2 ^ 53) : isFinite (i2f n) = true :=
  (fround_integer _ (natAbs_le_of_abs_le h)).1

theorem units_i2f {n : ℤ} (h : |n| ≤ 2 ^ 53) : units (i2f n) = n * oneUnits := by
  have hmag : mag (i2f n) = n.natAbs * oneUnits := (fround_integer _ (natAbs_le_of_abs_le h)).2
  have hsign : sign (i2f n) = decide (n < 0) := sign_fround _ _ _
  obtain hn | hn := lt_or_ge n 0
  · rw [units_of_sign_true (by rw [hsign, decide_eq_true hn]), hmag, Nat.cast_mul, Int.ofNat_natAbs_of_nonpos hn.le,
      neg_mul, neg_neg]
  · rw [units_of_sign_false (by rw [hsign, decide_eq_false hn.not_gt]), hmag, Nat.cast_mul, Int.natAbs_of_nonneg hn]

/-- A pattern has an integral value exactly where its units are a whole number of ones. -/
theorem value_eq_intCast_iff (x : Word) (n : ℤ) : value x = n ↔ units x = n * oneUnits := by
  rw [value, div_eq_iff (by positivity), ← cast_oneUnits, ← Int.cast_natCast, ← Int.cast_mul, Int.cast_inj]

theorem value_i2f {n : ℤ} (h : |n| ≤ 2 ^ 53) : value (i2f n) = n :=
  (value_eq_intCast_iff _ n).2 (units_i2f h)

theorem f2i_of_value_eq {x : Word} {n : ℤ} (h : value x = n) : f2i x = n := by
  rw [f2i, (value_eq_intCast_iff x n).1 h, Int.mul_tdiv_cancel _ (by exact_mod_cast oneUnits_pos.ne')]

/-- Settles O37: an integer of at most 53 bits is a representable number of units. -/
theorem smallIntegersConvertExactly : Obligations.SmallIntegersConvertExactly :=
  ⟨fun _ h => ⟨isFinite_i2f h, value_i2f h⟩, by decide +kernel, fun _ _ _ h _ => f2i_of_value_eq h⟩

/-! ### Horner's order (R72) -/

theorem horner_cons_of_ne_nil (nan y t : Word) {cs : List Word} (h : cs ≠ []) :
    horner nan (t :: cs) y = fadd nan (fmul nan (horner nan cs y) y) t := by
  obtain ⟨c, cs, rfl⟩ := List.exists_cons_of_ne_nil h
  rfl

/-- Settles O38, by induction on the entries below the highest. -/
theorem hornerRunsFromTheHighestEntry : Obligations.HornerRunsFromTheHighestEntry := by
  intro nan y c cs
  induction cs with
  | nil => rfl
  | cons t cs ih => rw [List.cons_append, horner_cons_of_ne_nil nan y t (by simp), ih, List.foldr_cons]

end Sys2Proof
end

section
/-!
PROOFS. FLOOR (spec R75): the truncation, less 1 where a negative operand is no whole number; both steps are exact.
-/

namespace Sys2Proof

open Sys2Proof.Machine

theorem floor_value (x : Word) : ⌊value x⌋ = units x / oneUnits := by
  rw [value, ← cast_oneUnits, Rat.floor_intCast_div_natCast]

/-! ### The two comparisons of FLOOR, in units -/

theorem flt_posZero_iff {x : Word} (hx : isFinite x = true) : flt x posZero = true ↔ units x < 0 := by
  have hzero : units posZero = 0 := by decide
  simp [flt, ordered, not_isNaN_of_isFinite hx, hzero, show isNaN posZero = false by decide]

theorem feq_iff_units {x y : Word} (hx : isFinite x = true) (hy : isFinite y = true) :
    feq x y = true ↔ units x = units y := by
  simp [feq, ordered, not_isNaN_of_isFinite hx, not_isNaN_of_isFinite hy]

/-! ### The function (R75) -/

/-- FLOOR subtracts 1 from the truncation exactly where a negative operand is no integer. -/
theorem floorFn_of_isFinite (k : Ctx) {x : Word} (hx : isFinite x = true) :
    floorFn k x = if units x < 0 ∧ units (ftrunc k.nan x) ≠ units x then fsub k.nan (ftrunc k.nan x) f1
      else ftrunc k.nan x := by
  have hcond : (flt x posZero && !feq (ftrunc k.nan x) x) = true ↔
      units x < 0 ∧ units (ftrunc k.nan x) ≠ units x := by
    rw [Bool.and_eq_true, flt_posZero_iff hx, Bool.not_eq_true', ← Bool.not_eq_true,
      feq_iff_units (ftrunc_spec k.nan hx).1 hx]
  simp only [floorFn, hcond]

theorem units_f1 : units f1 = oneUnits := by decide +kernel

/-- Below a negative whole number `-q` lies `-(q + 1)`, reached without rounding. -/
theorem fsub_f1_of_integer (nan : Word) {t : Word} {q : Nat} (ht : isFinite t = true) (hs : sign t = true)
    (hmag : mag t = q * oneUnits) : fsub nan t f1 = fround true ((q + 1) * oneUnits) 1 := by
  have hsum : units t + units (fneg f1) = -((q + 1) * oneUnits : ℕ) := by
    rw [units_of_sign_true hs, hmag, units_fneg, units_f1]
    push_cast
    ring
  have hpos : 0 < (q + 1) * oneUnits := Nat.mul_pos q.succ_pos oneUnits_pos
  rw [fsub, fadd_of_isFinite ht (by decide) (.inr (by decide)), hsum, if_neg (by omega), Int.natAbs_neg, Int.natAbs_natCast,
    decide_eq_true (by omega)]

/-- The floor of a negative number of units that is no whole number of ones. -/
theorem neg_ediv_of_not_dvd {m u : Nat} (hu : 0 < u) (h : ¬ u ∣ m) : -(m : ℤ) / u = -(m / u + 1 : ℕ) := by
  have hdiv := Nat.div_add_mod m u
  have hlt := Nat.mod_lt m hu
  have hpos : 0 < m % u := Nat.pos_of_ne_zero (mt Nat.dvd_of_mod_eq_zero h)
  refine ((Int.ediv_emod_unique (r := u - (m % u : ℕ)) (by exact_mod_cast hu)).2 ⟨?_, by omega, by omega⟩).1
  zify at hdiv
  push_cast
  linarith

/-- FLOOR of a finite operand: finite, of the same sign, its value the floor (R75). -/
theorem floorFn_spec (k : Ctx) {x : Word} (hx : isFinite x = true) :
    isFinite (floorFn k x) = true ∧ sign (floorFn k x) = sign x ∧
    units (floorFn k x) = units x / oneUnits * oneUnits := by
  obtain ⟨hfin, hsign, hmag⟩ := ftrunc_spec k.nan hx
  rw [floorFn_of_isFinite k hx]
  cases hs : sign x
  case false =>
    rw [hs] at hsign
    have hunits := units_of_sign_false hs
    rw [if_neg (by omega), units_of_sign_false hsign, hmag, hunits]
    exact ⟨hfin, hsign, by push_cast; rfl⟩
  case true =>
    rw [hs] at hsign
    have hunits := units_of_sign_true hs
    have htrunc := units_of_sign_true hsign
    by_cases hdvd : oneUnits ∣ mag x
    · rw [Nat.div_mul_cancel hdvd] at hmag
      rw [if_neg (by omega), htrunc, hmag, hunits, Int.ediv_mul_cancel (Int.dvd_neg.2 (Int.natCast_dvd_natCast.2 hdvd))]
      exact ⟨hfin, hsign, rfl⟩
    · have hne : mag x / oneUnits * oneUnits ≠ mag x := fun h => hdvd ⟨_, by rw [mul_comm, h]⟩
      have hle : mag x / oneUnits * oneUnits ≤ mag x := Nat.div_mul_le_self _ _
      have hlt := (oneUnits_dvd_mag_or_lt x).resolve_left hdvd
      obtain ⟨hfin', hmag'⟩ := fround_integer true (n := mag x / oneUnits + 1) (by omega)
      rw [if_pos (by omega), fsub_f1_of_integer k.nan hfin hsign hmag, units_of_sign_true (sign_fround _ _ _), hmag',
        hunits, neg_ediv_of_not_dvd oneUnits_pos hdvd]
      exact ⟨hfin', sign_fround _ _ _, by push_cast; ring⟩

theorem value_floorFn (k : Ctx) {x : Word} (hx : isFinite x = true) : value (floorFn k x) = (⌊value x⌋ : ℚ) := by
  obtain ⟨-, -, hunits⟩ := floorFn_spec k hx
  rwa [value_eq_intCast_iff, floor_value]

/-- A zero and an infinity are their own floor (R75). -/
theorem floorFn_of_isInf_or_isZero (k : Ctx) {x : Word} (h : isInf x = true ∨ isZero x = true) : floorFn k x = x := by
  have hself : feq x x = true := by
    simp [feq, ordered, h.elim not_isNaN_of_isInf not_isNaN_of_isZero]
  simp [floorFn, ftrunc_of_isInf_or_isZero h, hself]

theorem isNaN_floorFn {k : Ctx} {x : Word} (hk : isNaN k.nan = true) (hx : isNaN x = true) :
    isNaN (floorFn k x) = true := by
  simpa [floorFn, flt_of_nan_left _ hx, ftrunc_of_isNaN hx] using hk

/-! ### The command (R75, R78) -/

theorem exec_floor_inside (s : State) (a b : Word) (h : domFloor a = true) :
    exec (.floor a b) s = .next (s.respond (floorFn s.ctx a)) :=
  (everyCommandCompletes (.floor a b) s).1 h

theorem exec_floor_outside (s : State) (a b : Word) (h : domFloor a = false) :
    exec (.floor a b) s = .next (s.respond s.unspec) :=
  (everyCommandCompletes (.floor a b) s).2 h

/-- Settles O40: the finite operands, the infinities, and the NaNs, which the command domain leaves out. -/
theorem floorIsTheMathematicalFloor : Obligations.FloorIsTheMathematicalFloor := by
  refine fun s a b => ⟨fun ha => ?_, fun ha => ?_, fun ha => ⟨isNaN_floorFn s.ctx_nan_isNaN ha, ?_⟩⟩
  · obtain ⟨hfin, hsign, -⟩ := floorFn_spec s.ctx ha
    exact ⟨_, exec_floor_inside s a b (by simp [domFloor, ha]), hfin, value_floorFn s.ctx ha, hsign,
      fun hz => floorFn_of_isInf_or_isZero s.ctx (.inr hz)⟩
  · rw [exec_floor_inside s a b (by simp [domFloor, ha]), floorFn_of_isInf_or_isZero s.ctx (.inl ha)]
  · exact exec_floor_outside s a b (by simp [domFloor, not_isFinite_of_isNaN ha, not_isInf_of_isNaN ha])

end Sys2Proof
end

section
/-!
PROOFS. The scalar constants (spec R76): each is within half a unit in its last place of the real number it is named for,
and no other pattern comes as near as half a unit.
-/

namespace Sys2Proof

open Sys2Proof.Machine

/-! ### The distance between patterns -/

section LastPlace

variable {c w : Word} {s n : Nat}

theorem succ_mul_le_mag (hn : n < 2 ^ 53) (hlo : 2 ^ 52 < n) (hc : low c = s * 2 ^ 52 + n) (h : low c < low w) :
    (n + 1) * 2 ^ s ≤ mag w := by
  obtain ⟨s', n', hsig, -, hw, hmag⟩ := exists_isSignificand w
  rw [hmag]
  exact succ_mul_two_pow_le ⟨hn.le, .inr hlo.le⟩ hsig hn (by omega)

theorem mag_le_pred_mul (hn : n < 2 ^ 53) (hlo : 2 ^ 52 < n) (hc : low c = s * 2 ^ 52 + n) (h : low w < low c) :
    mag w ≤ (n - 1) * 2 ^ s := by
  have hlt := low_lt c
  have hpred : low (signed false (low c - 1)) = s * 2 ^ 52 + (n - 1) := by
    rw [low_signed false (by omega)]
    omega
  rw [← mag_of_low ⟨by omega, .inr (by omega)⟩ hpred]
  exact mag_le_mag (by omega)

/-- Every other value is at least a unit in the last place away from a normal pattern above the lowest of its binade. -/
theorem ulp_le_dist (hs : sign c = false) (hn : n < 2 ^ 53) (hlo : 2 ^ 52 < n) (hc : low c = s * 2 ^ 52 + n)
    (hne : w ≠ c) : 2 ^ s ≤ |units w - units c| := by
  have hunits : units c = n * 2 ^ s := by
    rw [units_of_sign_false hs, mag_of_low ⟨hn.le, .inr hlo.le⟩ hc]
    push_cast
    rfl
  have hpos : (0 : ℤ) < 2 ^ s := by positivity
  rw [hunits]
  cases hw : sign w
  case true =>
    have hone : (2 : ℤ) ^ s ≤ n * 2 ^ s := le_mul_of_one_le_left hpos.le (by omega)
    have hmag := Int.natCast_nonneg (mag w)
    rw [units_of_sign_true hw, abs_of_nonpos (by linarith)]
    linarith
  case false =>
    rw [units_of_sign_false hw]
    obtain hlt | heq | hgt := lt_trichotomy (low w) (low c)
    · have hle := mag_le_pred_mul hn hlo hc hlt
      zify [show 1 ≤ n by omega] at hle
      rw [abs_of_nonpos (by linarith)]
      linarith
    · exact absurd (word_ext (hw.trans hs.symm) heq) hne
    · have hle := succ_mul_le_mag hn hlo hc hgt
      zify at hle
      rw [abs_of_nonneg (by linarith)]
      linarith

end LastPlace

/-- A positive normal pattern within half a unit in its last place of a real number is the value nearest to it. -/
theorem value_nearest {c : Word} {k : Nat} {r : ℝ} (hs : sign c = false)
    (hk : 1 ≤ (expfield c).toNat ∧ (mant c).toNat ≠ 0 ∧ (expfield c).toNat + k = 1076)
    (hr : |((value c : ℚ) : ℝ) - r| ≤ 1 / 2 ^ k) (w : Word) :
    |((value c : ℚ) : ℝ) - r| ≤ |((value w : ℚ) : ℝ) - r| := by
  obtain ⟨he, hm, hk⟩ := hk
  obtain rfl | hne := eq_or_ne w c
  · exact le_rfl
  · have hulp := ulp_le_dist (s := (expfield c).toNat - 1) (n := 2 ^ 52 + (mant c).toNat) hs
      (by have := (mant c).isLt; omega) (by omega) (by rw [low]; omega) hne
    have hgap : 2 / 2 ^ k ≤ |((value w : ℚ) : ℝ) - (value c : ℚ)| := by
      have hpow : (2 : ℝ) / 2 ^ k = 2 ^ ((expfield c).toNat - 1) / 2 ^ 1074 := by
        rw [div_eq_div_iff (by positivity) (by positivity), ← pow_succ', ← pow_add]
        congr 1
        omega
      have hdist : |((value w : ℚ) : ℝ) - (value c : ℚ)| = (|units w - units c| : ℤ) / 2 ^ 1074 := by
        rw [value, value]
        push_cast
        rw [← sub_div, abs_div, abs_of_pos (a := (2 : ℝ) ^ 1074) (by positivity)]
      rw [hpow, hdist]
      gcongr
      exact_mod_cast hulp
    have htri := abs_sub_le ((value w : ℚ) : ℝ) r (value c : ℚ)
    rw [abs_sub_comm r] at htri
    have : (2 : ℝ) / 2 ^ k = 1 / 2 ^ k + 1 / 2 ^ k := by ring
    linarith

/-! ### The real numbers, to 20 digits -/

/-- The inverse hyperbolic tangent series at 1/3, twenty terms of it. -/
theorem log_two_gt : 0.693147180559945309 < Real.log 2 := by
  have h := Real.sum_range_le_log_div (x := 1 / 3) (by norm_num) (by norm_num) 20
  norm_num [Finset.sum_range_succ] at h
  linarith

theorem log_two_lt : Real.log 2 < 0.693147180559945310 := by
  have h := Real.log_div_le_sum_range_add (x := 1 / 3) (by norm_num) (by norm_num) 20
  norm_num [Finset.sum_range_succ] at h
  linarith

theorem value_pi : value pi = 884279719003555 / 2 ^ 48 := by decide +kernel
theorem value_sqrt2 : value sqrt2 = 6369051672525773 / 2 ^ 52 := by decide +kernel
theorem value_log2e : value log2e = 6497320848556798 / 2 ^ 52 := by decide +kernel
theorem value_ln2 : value ln2 = 6243314768165359 / 2 ^ 53 := by decide +kernel

theorem pi_near : |((value pi : ℚ) : ℝ) - Real.pi| ≤ 1 / 2 ^ 52 := by
  rw [value_pi, abs_le]
  push_cast
  constructor <;> linarith [Real.pi_gt_d20, Real.pi_lt_d20]

/-- A multiple of pi has the error of pi, scaled. -/
theorem pi_multiple_near {c : Word} {q : ℚ} (hq : 0 < q) (hc : value c = q * value pi) :
    |((value c : ℚ) : ℝ) - q * Real.pi| ≤ q / 2 ^ 52 := by
  have hq : (0 : ℝ) < q := by exact_mod_cast hq
  rw [hc, Rat.cast_mul, ← mul_sub, abs_mul, abs_of_pos hq, div_eq_mul_one_div]
  exact mul_le_mul_of_nonneg_left pi_near hq.le

theorem twoPi_near : |((value twoPi : ℚ) : ℝ) - 2 * Real.pi| ≤ 1 / 2 ^ 51 := by
  have h := pi_multiple_near (c := twoPi) (q := 2) two_pos (by decide +kernel)
  norm_num at h ⊢
  exact h

theorem halfPi_near : |((value halfPi : ℚ) : ℝ) - Real.pi / 2| ≤ 1 / 2 ^ 53 := by
  have h := pi_multiple_near (c := halfPi) (q := 1 / 2) one_half_pos (by decide +kernel)
  rw [div_eq_inv_mul]
  norm_num at h ⊢
  exact h

theorem pi32_near : |((value pi32 : ℚ) : ℝ) - Real.pi / 32| ≤ 1 / 2 ^ 57 := by
  have h := pi_multiple_near (c := pi32) (q := 1 / 32) (by norm_num) (by decide +kernel)
  rw [div_eq_inv_mul]
  norm_num at h ⊢
  exact h

theorem sqrt2_near : |((value sqrt2 : ℚ) : ℝ) - Real.sqrt 2| ≤ 1 / 2 ^ 53 := by
  have hlo : (6369051672525773 / 2 ^ 52 - 1 / 2 ^ 53 : ℝ) ≤ Real.sqrt 2 := Real.le_sqrt_of_sq_le (by norm_num)
  have hhi : Real.sqrt 2 ≤ (6369051672525773 / 2 ^ 52 + 1 / 2 ^ 53 : ℝ) := Real.sqrt_le_iff.2 (by norm_num)
  rw [value_sqrt2, abs_le]
  push_cast
  constructor <;> linarith

theorem log2e_near : |((value log2e : ℚ) : ℝ) - Real.logb 2 (Real.exp 1)| ≤ 1 / 2 ^ 53 := by
  have hpos : 0 < Real.log 2 := Real.log_pos one_lt_two
  have hlo : (6497320848556798 / 2 ^ 52 - 1 / 2 ^ 53 : ℝ) ≤ 1 / Real.log 2 := by
    rw [le_div_iff₀ hpos]
    linarith [log_two_lt]
  have hhi : 1 / Real.log 2 ≤ (6497320848556798 / 2 ^ 52 + 1 / 2 ^ 53 : ℝ) := by
    rw [div_le_iff₀ hpos]
    linarith [log_two_gt]
  rw [Real.logb, Real.log_exp, value_log2e, abs_le]
  push_cast
  constructor <;> linarith

theorem ln2_near : |((value ln2 : ℚ) : ℝ) - Real.log 2| ≤ 1 / 2 ^ 54 := by
  rw [value_ln2, abs_le]
  push_cast
  constructor <;> linarith [log_two_gt, log_two_lt]

/-- Settles O39: each constant is within half a unit in its last place, and the literals are as written. -/
theorem piAndRootConstantsAreNearest : Obligations.PiAndRootConstantsAreNearest :=
  ⟨fun w _ =>
    ⟨value_nearest (by decide) (by decide) pi_near w,
      value_nearest (by decide) (by decide) twoPi_near w,
      value_nearest (by decide) (by decide) halfPi_near w,
      value_nearest (by decide) (by decide) pi32_near w,
      value_nearest (by decide) (by decide) sqrt2_near w,
      value_nearest (by decide) (by decide) log2e_near w,
      value_nearest (by decide) (by decide) ln2_near w⟩,
    value_f0_25, value_f0_5, value_fm0_5, value_f0_75, value_f1, value_f2, value_f3, value_f4, value_fm1022, value_f1023⟩

end Sys2Proof
end

section
/-!
PROOFS. Bounds and exactness of rounding (spec R61 to R65): rounding keeps the order of the magnitudes, so a result is
bounded by every pattern whose magnitude bounds the exact one; a zero added and a factor 4 are not rounded.
-/

namespace Sys2Proof

open Sys2Proof.Machine

/-! ### Rounding keeps the order (R61) -/

theorem nearestEven_mono {p q p' q' : Nat} (hq : 0 < q) (hq' : 0 < q') (h : p * q' ≤ p' * q) :
    nearestEven p q ≤ nearestEven p' q' := by
  obtain ⟨hnear, htie⟩ := nearestEven_nearest p hq
  obtain ⟨hnear', htie'⟩ := nearestEven_nearest p' hq'
  have hle : (p : ℚ) / q ≤ p' / q' := by
    rw [div_le_div_iff₀ (by exact_mod_cast hq) (by exact_mod_cast hq')]
    exact_mod_cast h
  by_contra hlt
  have hsucc : (nearestEven p' q' : ℚ) + 1 ≤ nearestEven p q := by exact_mod_cast not_le.1 hlt
  have hlo := (abs_le.1 hnear).1
  have hhi := (abs_le.1 hnear').2
  -- The two quotients are one tie, between two integers that would both be even.
  have heven := htie (by rw [abs_of_nonpos] <;> linarith)
  have heven' := htie' (by rw [abs_of_nonneg] <;> linarith)
  have hnext : nearestEven p q = nearestEven p' q' + 1 := by
    have : (nearestEven p q : ℚ) = nearestEven p' q' + 1 := by linarith
    exact_mod_cast this
  omega

theorem ulpShift_mono {p q p' q' : Nat} (hq : 0 < q) (hq' : 0 < q') (h : p * q' ≤ p' * q) :
    ulpShift p q ≤ ulpShift p' q' := by
  have hdiv : p / q ≤ p' / q' := by
    rw [Nat.le_div_iff_mul_le hq']
    refine Nat.le_of_mul_le_mul_right ?_ hq
    calc p / q * q' * q = p / q * q * q' := by ring
      _ ≤ p * q' := Nat.mul_le_mul_right _ (Nat.div_mul_le_self p q)
      _ ≤ p' * q := h
  unfold ulpShift
  rw [Nat.log2_eq_log_two, Nat.log2_eq_log_two]
  exact Nat.sub_le_sub_right (Nat.log_mono_right hdiv) 52

theorem roundMag_mono {p q p' q' : Nat} (hq : 0 < q) (hq' : 0 < q') (h : p * q' ≤ p' * q) :
    roundMag p q ≤ roundMag p' q' := by
  refine min_le_min_right _ ?_
  obtain heq | hlt := (ulpShift_mono hq hq' h).eq_or_lt
  · rw [heq]
    refine Nat.add_le_add_left (nearestEven_mono (by positivity) (by positivity) ?_) _
    calc p * (q' * 2 ^ ulpShift p' q') = p * q' * 2 ^ ulpShift p' q' := by ring
      _ ≤ p' * q * 2 ^ ulpShift p' q' := Nat.mul_le_mul_right _ h
      _ = p' * (q * 2 ^ ulpShift p' q') := by ring
  · have hle := (nearestEven_isSignificand p hq).le
    have hnormal := (nearestEven_isSignificand p' hq').normal
    omega

/-- A rounded number stays below every finite pattern whose magnitude it does not exceed. -/
theorem low_fround_le (neg : Bool) {p q : Nat} {w : Word} (hw : isFinite w = true) (hq : 0 < q) (h : p ≤ mag w * q) :
    low (fround neg p q) ≤ low w := by
  have hcap : roundMag p q ≤ 2047 * 2 ^ 52 := min_le_right _ _
  rw [fround, low_signed neg (by omega), ← roundMag_mag hw]
  exact roundMag_mono hq one_pos (by rwa [mul_one])

theorem isFinite_of_low_le {v w : Word} (hw : isFinite w = true) (h : low v ≤ low w) : isFinite v = true := by
  rw [isFinite_iff] at hw ⊢
  omega

theorem fround_mul_mul (neg : Bool) {p q c : Nat} (hc : 0 < c) (hq : 0 < q) :
    fround neg (p * c) (q * c) = fround neg p q := by
  have hcross : p * c * q = p * (q * c) := by ring
  have hqc : 0 < q * c := Nat.mul_pos hq hc
  rw [fround, fround, (roundMag_mono hqc hq hcross.le).antisymm (roundMag_mono hq hqc hcross.ge)]

/-! ### Order of finite patterns (R67) -/

theorem flt_iff_value {x y : Word} (hx : isFinite x = true) (hy : isFinite y = true) :
    flt x y = true ↔ value x < value y := by
  rw [← not_le, value_le_value_iff, not_le]
  simp [flt, ordered, not_isNaN_of_isFinite hx, not_isNaN_of_isFinite hy]

/-! ### Sums (R62, R63) -/

section Sums

variable {nan x y w : Word}

/-- The sum of two finite patterns: a zero where the exact sum is zero, else the exact sum rounded. -/
theorem fadd_cases (nan : Word) (hx : isFinite x = true) (hy : isFinite y = true) :
    (units x + units y = 0 ∧ isZero (fadd nan x y) = true) ∨
    (units x + units y ≠ 0 ∧
      fadd nan x y = fround (decide (units x + units y < 0)) (units x + units y).natAbs 1) := by
  by_cases hsum : units x + units y = 0
  · refine .inl ⟨hsum, ?_⟩
    by_cases hz : isZero x = true ∧ isZero y = true
    · obtain ⟨hzx, hzy⟩ := hz
      rw [fadd_of_isZero hzx hzy]
      split
      exacts [hzx, by decide]
    · rw [fadd_of_isFinite hx hy (by simpa [imp_iff_not_or] using hz), if_pos hsum]
      decide
  · refine .inr ⟨hsum, ?_⟩
    rw [fadd_of_value_add_ne_zero hx hy (mt (value_add_eq_zero_iff x y).1 hsum)]

/-- A sum stays below every finite pattern whose magnitude the exact sum does not exceed. -/
theorem low_fadd_le (hx : isFinite x = true) (hy : isFinite y = true) (hw : isFinite w = true)
    (h : (units x + units y).natAbs ≤ mag w) : low (fadd nan x y) ≤ low w := by
  obtain ⟨-, hzero⟩ | ⟨-, hround⟩ := fadd_cases nan hx hy
  · rw [(isZero_iff _).1 hzero]
    exact Nat.zero_le _
  · rw [hround]
    exact low_fround_le _ hw one_pos (by rwa [mul_one])

theorem units_fadd_nonneg (hx : isFinite x = true) (hy : isFinite y = true) (h : 0 ≤ units x + units y) :
    0 ≤ units (fadd nan x y) := by
  obtain ⟨-, hzero⟩ | ⟨-, hround⟩ := fadd_cases nan hx hy
  · exact ((units_eq_zero_iff _).2 hzero).ge
  · rw [hround, decide_eq_false h.not_gt, units_of_sign_false (sign_fround _ _ _)]
    exact Int.natCast_nonneg _

/-- A sum of at most 53 significant bits is not rounded. -/
theorem fadd_exact {s n : Nat} (hx : isFinite x = true) (hy : isFinite y = true) (hn : n ≤ 2 ^ 53) (hs : s < 2045)
    (h : (units x + units y).natAbs = n * 2 ^ s) :
    isFinite (fadd nan x y) = true ∧ units (fadd nan x y) = units x + units y := by
  obtain ⟨hsum, hzero⟩ | ⟨-, hround⟩ := fadd_cases nan hx hy
  · exact ⟨isFinite_of_isZero hzero, ((units_eq_zero_iff _).2 hzero).trans hsum.symm⟩
  · have hlt : n * 2 ^ s < 2 ^ (53 + 2045) := by
      have hpow : 2 ^ s < 2 ^ 2045 := by gcongr; exact one_lt_two
      rw [pow_add]
      exact Nat.mul_lt_mul_of_le_of_lt hn hpow (by positivity)
    obtain ⟨hfin, hmag⟩ := fround_exact (decide (units x + units y < 0)) hn hlt
    rw [hround, h]
    refine ⟨hfin, ?_⟩
    rw [units, sign_fround, hmag, ← h]
    simp only [decide_eq_true_eq]
    split <;> omega

/-- A finite pattern that is not a zero is the rounding of its own units (R61). -/
theorem fround_units (hx : isFinite x = true) (hz : isZero x = false) :
    fround (decide (units x < 0)) (units x).natAbs 1 = x := by
  have hpos := mag_pos hz
  have hsign : decide (units x < 0) = sign x := by
    cases hs : sign x
    · simp [units_of_sign_false hs]
    · simpa [units_of_sign_true hs] using hpos
  rw [hsign, natAbs_units, fround_mag hx]

theorem units_ne_zero (h : isZero x = false) : units x ≠ 0 := by
  rw [ne_eq, units_eq_zero_iff, h]
  exact Bool.false_ne_true

/-- A zero added to a finite pattern that is not a zero leaves it as it is (R62). -/
theorem fadd_of_isZero_left (hx : isZero x = true) (hy : isFinite y = true) (hzy : isZero y = false) :
    fadd nan x y = y := by
  rw [fadd_of_isFinite (isFinite_of_isZero hx) hy (.inr hzy), (units_eq_zero_iff x).2 hx, zero_add,
    if_neg (units_ne_zero hzy), fround_units hy hzy]

theorem fadd_of_isZero_right (hx : isFinite x = true) (hzx : isZero x = false) (hy : isZero y = true) :
    fadd nan x y = x := by
  rw [fadd_of_isFinite hx (isFinite_of_isZero hy) (.inl hzx), (units_eq_zero_iff y).2 hy, add_zero,
    if_neg (units_ne_zero hzx), fround_units hx hzx]

theorem fsub_of_isZero_right (hx : isFinite x = true) (hzx : isZero x = false) (hy : isZero y = true) :
    fsub nan x y = x :=
  fadd_of_isZero_right hx hzx ((isZero_fneg y).trans hy)

/-- A pattern of exponent field above `k` is a whole number of the last places of field `k + 1`. -/
theorem two_pow_dvd_mag {k : Nat} (h : (k + 1) * 2 ^ 52 ≤ low w) : 2 ^ k ∣ mag w := by
  obtain ⟨s, n, -, hlt, hlow, hmag⟩ := exists_isSignificand w
  rw [hmag]
  exact Dvd.dvd.mul_left (pow_dvd_pow 2 (by omega)) n

theorem two_pow_dvd_units_of_quarter_le (h : 1 / 4 ≤ value w) : (2 : ℤ) ^ 1020 ∣ units w := by
  have hquarter : low f0_25 = (1020 + 1) * 2 ^ 52 := by decide
  have hle : mag f0_25 ≤ mag w := by
    rw [← value_f0_25, value_le_value_iff] at h
    have := natAbs_units f0_25
    have := natAbs_units w
    have : units f0_25 = mag f0_25 := units_of_sign_false (by decide)
    omega
  have hlow : low f0_25 ≤ low w := not_lt.1 fun hlt => (mag_lt_mag hlt).not_ge hle
  have hdvd : 2 ^ 1020 ∣ mag w := two_pow_dvd_mag (by omega)
  rw [← Int.dvd_natAbs, natAbs_units]
  exact_mod_cast hdvd

/-- From a quarter on patterns are whole multiples of `2^(-54)`, so differences up to a half are exact. -/
theorem fsub_exact_of_quarter_le (hx : isFinite x = true) (hy : isFinite y = true) (hqx : 1 / 4 ≤ value x)
    (hqy : 1 / 4 ≤ value y) (h : |value x - value y| ≤ 1 / 2) :
    isFinite (fsub nan x y) = true ∧ value (fsub nan x y) = value x - value y := by
  obtain ⟨m, hm⟩ := Int.dvd_sub (two_pow_dvd_units_of_quarter_le hqx) (two_pow_dvd_units_of_quarter_le hqy)
  have hdiff : value x - value y = m / 2 ^ 54 := by
    rw [value, value, ← sub_div, ← Int.cast_sub, hm, show 1074 = 1020 + 54 from rfl, pow_add, Int.cast_mul,
      mul_comm, Int.cast_pow, Int.cast_ofNat, mul_comm, mul_div_mul_left _ _ (by positivity)]
  have hbits : m.natAbs ≤ 2 ^ 53 := by
    rw [hdiff, abs_div, abs_of_pos (a := (2 : ℚ) ^ 54) (by positivity), div_le_iff₀ (by positivity)] at h
    have : |(m : ℚ)| ≤ 2 ^ 53 := by linarith
    exact natAbs_le_of_abs_le (by exact_mod_cast this)
  have hsum : units x + units (fneg y) = m * (2 ^ 1020 : ℕ) := by
    rw [units_fneg, ← sub_eq_add_neg, hm, mul_comm, Nat.cast_pow, Nat.cast_ofNat]
  obtain ⟨hfin, hunits⟩ := fadd_exact (nan := nan) (s := 1020) hx ((isFinite_fneg y).trans hy) hbits (by norm_num)
    (by rw [hsum, Int.natAbs_mul, Int.natAbs_natCast])
  refine ⟨hfin, ?_⟩
  rw [fsub, value, hunits, ← value_add, value_fneg, sub_eq_add_neg]

end Sums

/-! ### Products (R64) -/

theorem signedZero_sign {x : Word} (h : isZero x = true) : (if sign x then negZero else posZero) = x := by
  obtain rfl | rfl := (isZero_iff_eq x).1 h <;> decide

theorem fmul_eq_posZero {nan x y : Word} (h : isZero x = true ∨ isZero y = true) (hx : isFinite x = true)
    (hy : isFinite y = true) (hs : sign x = sign y) : fmul nan x y = posZero := by
  rw [fmul_of_isZero h hx hy, hs, Bool.xor_self, if_neg Bool.false_ne_true]

theorem mag_f4 : mag f4 = 4 * oneUnits := by decide +kernel

/-- The product of 4 and a pattern of at most a quarter is not rounded. -/
theorem fmul_f4_exact {nan x : Word} (hx : isFinite x = true) (h : |value x| ≤ 1 / 4) :
    isFinite (fmul nan f4 x) = true ∧ value (fmul nan f4 x) = 4 * value x := by
  cases hz : isZero x
  case true =>
    have hzero : isZero (fmul nan f4 x) = true := by
      rw [fmul_of_isZero (.inr hz) (by decide) hx]
      split <;> decide
    rw [(value_eq_zero_iff _).2 hzero, (value_eq_zero_iff x).2 hz, mul_zero]
    exact ⟨isFinite_of_isZero hzero, rfl⟩
  case false =>
    obtain ⟨s, n, -, hn, -, hmag⟩ := exists_isSignificand x
    have hfour : 4 * mag x = n * 2 ^ (s + 2) := by rw [hmag]; ring
    have hround : fmul nan f4 x = fround (sign x) (4 * mag x) 1 := by
      rw [fmul_of_isFinite (by decide) hx (by decide) hz, mag_f4, mul_right_comm, show sign f4 = false by decide,
        Bool.false_xor, ← fround_mul_mul (sign x) oneUnits_pos one_pos, one_mul]
    have hlt : 4 * mag x < 2 ^ (53 + 2045) := by
      rw [abs_value, ← cast_oneUnits, div_le_div_iff₀ (by exact_mod_cast oneUnits_pos) four_pos, one_mul] at h
      have hle : mag x * 4 ≤ oneUnits := by exact_mod_cast h
      rw [mul_comm]
      refine hle.trans_lt ?_
      unfold oneUnits
      gcongr <;> norm_num
    obtain ⟨hfin, hmag'⟩ := hfour ▸ fround_exact (sign x) hn.le (hfour ▸ hlt)
    rw [hround, value_eq, value_eq x, signFactor, signFactor, sign_fround, hmag', Nat.cast_mul, mul_div_assoc,
      mul_left_comm]
    exact ⟨hfin, rfl⟩

end Sys2Proof
end

section
/-!
PROOFS. Sine and cosine (spec R85 to R90): the odd polynomial, the triple-angle form, the four quadrants of a period,
and the phase that SIN and COS hand on.
-/

namespace Sys2Proof

open Sys2Proof.Machine

/-! ### The commands inside their domains (R78) -/

section Commands

variable {a : Word} (s : State) (b : Word)

theorem exec_sinS1_inside (h : domSinS1 a = true) : exec (.sinS1 a b) s = .next (s.respond (sinS1Fn s.ctx a)) :=
  (everyCommandCompletes (.sinS1 a b) s).1 h

theorem exec_sinS2_inside (h : domSinS2 a = true) : exec (.sinS2 a b) s = .next (s.respond (sinS2Fn s.ctx a)) :=
  (everyCommandCompletes (.sinS2 a b) s).1 h

theorem exec_sinS3_inside (h : domSinS3 a = true) : exec (.sinS3 a b) s = .next (s.respond (sinS3Fn s.ctx a)) :=
  (everyCommandCompletes (.sinS3 a b) s).1 h

theorem exec_sin_inside (h : isFinite a = true) : exec (.sin a b) s = .next (s.respond (sinFn s.ctx a)) :=
  (everyCommandCompletes (.sin a b) s).1 h

theorem exec_cos_inside (h : isFinite a = true) : exec (.cos a b) s = .next (s.respond (cosFn s.ctx a)) :=
  (everyCommandCompletes (.cos a b) s).1 h

end Commands

theorem domSinS3_iff (a : Word) : domSinS3 a = true ↔ isFinite a = true ∧ 0 ≤ value a ∧ value a ≤ 1 :=
  domSinS1_iff a

/-! ### The odd polynomial (R72, R73, R85) -/

theorem vector_six_toList {α : Type} (v : Vector α 6) : v.toList = [v[0], v[1], v[2], v[3], v[4], v[5]] := by
  apply List.ext_getElem
  · simp
  · intro i hi _
    have hi : i < 6 := by simpa using hi
    interval_cases i <;> rfl

section OddPolynomial

variable {nan c : Word} {cs : List Word}

/-- At `+0.0` Horner's scheme gives a finite pattern, and the lowest entry when that is not a zero. -/
theorem horner_posZero (hfin : ∀ t ∈ c :: cs, isFinite t = true) :
    isFinite (horner nan (c :: cs) posZero) = true ∧ (isZero c = false → horner nan (c :: cs) posZero = c) := by
  induction cs generalizing c with
  | nil => exact ⟨hfin c (by simp), fun _ => rfl⟩
  | cons d ds ih =>
    have hc : isFinite c = true := hfin c (by simp)
    obtain ⟨hrest, -⟩ := ih (c := d) fun t ht => hfin t (List.mem_cons_of_mem _ ht)
    have hzero : isZero (fmul nan (horner nan (d :: ds) posZero) posZero) = true := by
      rw [fmul_of_isZero (.inr (by decide)) hrest (by decide)]
      split <;> decide
    rw [horner_cons_of_ne_nil nan posZero c (List.cons_ne_nil d ds)]
    refine ⟨?_, fadd_of_isZero_left hzero hc⟩
    cases hzc : isZero c
    · rwa [fadd_of_isZero_left hzero hc hzc]
    · rw [fadd_of_isZero hzero hzc]
      split
      exacts [isFinite_of_isZero hzero, by decide]

/-- An odd polynomial of finite entries with a positive lowest one gives each zero itself. -/
theorem oddpoly_of_isZero {x : Word} (hfin : ∀ t ∈ c :: cs, isFinite t = true) (hpos : flt posZero c = true)
    (hx : isZero x = true) : oddpoly nan (c :: cs) x = x := by
  have hxfin := isFinite_of_isZero hx
  have hc : isFinite c = true := hfin c (by simp)
  rw [flt_iff_value (by decide) hc, value_posZero] at hpos
  have hzc : isZero c = false := by
    rw [← Bool.not_eq_true, ← value_eq_zero_iff]
    exact hpos.ne'
  rw [oddpoly, fmul_eq_posZero (.inl hx) hxfin hxfin rfl, (horner_posZero hfin).2 hzc,
    fmul_of_isZero (.inr hx) hc hxfin, (value_pos_iff hzc).1 hpos, Bool.false_xor, signedZero_sign hx]

end OddPolynomial

theorem sinC_isFinite {c : Cfg} (h : c.wellFormed = true) : ∀ t ∈ c.sinC.toList, isFinite t = true := by
  simp only [Cfg.wellFormed, Cfg.coeffsFinite, Bool.and_eq_true, List.all_eq_true] at h
  tauto

/-- SIN_S1 of a zero of either sign (R85). -/
theorem sinS1Fn_of_isZero {k : Ctx} {x : Word} (hwf : k.cfg.wellFormed = true) (hpos : k.cfg.sinLeadPositive = true)
    (hx : isZero x = true) : sinS1Fn k x = x := by
  have hfin := sinC_isFinite hwf
  rw [vector_six_toList] at hfin
  rw [sinS1Fn, vector_six_toList]
  exact oddpoly_of_isZero hfin hpos hx

/-- Settles O41: Horner's scheme of six entries written out, and its value at the zeros. -/
theorem sinStageOneEvaluates : Obligations.SinStageOneEvaluates := by
  intro s a b ha
  dsimp only
  refine ⟨?_, fun hz hwf hpos => ?_⟩
  · rw [exec_sinS1_inside s b ha, sinS1Fn, vector_six_toList]
    rfl
  · rw [exec_sinS1_inside s b ha, sinS1Fn_of_isZero (k := s.ctx) hwf hpos hz]

/-! ### The triple-angle form (R86) -/

/-- Settles O42: four times an angle of at most a quarter is exact and at most 1. -/
theorem sinStageTwoTriplesTheAngle : Obligations.SinStageTwoTriplesTheAngle := by
  intro s a b ha
  dsimp only
  obtain ⟨hfin, hlo, hhi⟩ := (domSinS2_iff a).1 ha
  obtain ⟨hqfin, hqvalue⟩ := fmul_f4_exact (nan := s.ctx.nan) hfin (by rwa [abs_of_nonneg hlo])
  have hq : domSinS1 (fmul s.ctx.nan f4 a) = true := by
    rw [domSinS1_iff, hqvalue]
    exact ⟨hqfin, by linarith, by linarith⟩
  exact ⟨hqvalue, hq, sinS1Fn s.ctx (fmul s.ctx.nan f4 a), exec_sinS1_inside s b hq, exec_sinS2_inside s b ha⟩

theorem sinS2Fn_posZero {k : Ctx} (hwf : k.cfg.wellFormed = true) (hpos : k.cfg.sinLeadPositive = true) :
    sinS2Fn k posZero = posZero := by
  have hfour : fmul k.nan f4 posZero = posZero := fmul_eq_posZero (.inr (by decide)) (by decide) (by decide) (by decide)
  have hsquare : fmul k.nan posZero posZero = posZero := fmul_eq_posZero (.inl (by decide)) (by decide) (by decide) rfl
  have hthree : fsub k.nan f3 posZero = f3 := fsub_of_isZero_right (by decide) (by decide) (by decide)
  simp only [sinS2Fn, hfour, sinS1Fn_of_isZero hwf hpos (x := posZero) (by decide), hsquare, hthree]
  exact fmul_eq_posZero (.inl (by decide)) (by decide) (by decide) (by decide)

/-! ### The four quadrants (R87) -/

/-- The argument that SIN_S3 hands to SIN_S2 (R87), mirrored or shifted into the first quadrant. -/
def mirrored (nan x : Word) : Word :=
  if flt x f0_25 then x
  else if flt x f0_5 then fsub nan f0_5 x
  else if flt x f0_75 then fsub nan x f0_5
  else fsub nan f1 x

section Quadrants

variable {nan x : Word}

theorem flt_quarter_iff (hx : isFinite x = true) : flt x f0_25 = true ↔ value x < 1 / 4 := by
  rw [flt_iff_value hx (by decide), value_f0_25]

theorem flt_half_iff (hx : isFinite x = true) : flt x f0_5 = true ↔ value x < 1 / 2 := by
  rw [flt_iff_value hx (by decide), value_f0_5]

theorem flt_threeQuarters_iff (hx : isFinite x = true) : flt x f0_75 = true ↔ value x < 3 / 4 := by
  rw [flt_iff_value hx (by decide), value_f0_75]

theorem mirrored_first (hx : isFinite x = true) (h : value x < 1 / 4) : mirrored nan x = x := by
  rw [mirrored, if_pos ((flt_quarter_iff hx).2 h)]

theorem mirrored_second (hx : isFinite x = true) (hlo : 1 / 4 ≤ value x) (hhi : value x < 1 / 2) :
    mirrored nan x = fsub nan f0_5 x := by
  rw [mirrored, if_neg (mt (flt_quarter_iff hx).1 hlo.not_gt), if_pos ((flt_half_iff hx).2 hhi)]

theorem mirrored_third (hx : isFinite x = true) (hlo : 1 / 2 ≤ value x) (hhi : value x < 3 / 4) :
    mirrored nan x = fsub nan x f0_5 := by
  rw [mirrored, if_neg (mt (flt_quarter_iff hx).1 (by linarith)), if_neg (mt (flt_half_iff hx).1 hlo.not_gt),
    if_pos ((flt_threeQuarters_iff hx).2 hhi)]

theorem mirrored_fourth (hx : isFinite x = true) (h : 3 / 4 ≤ value x) : mirrored nan x = fsub nan f1 x := by
  rw [mirrored, if_neg (mt (flt_quarter_iff hx).1 (by linarith)), if_neg (mt (flt_half_iff hx).1 (by linarith)),
    if_neg (mt (flt_threeQuarters_iff hx).1 h.not_gt)]

/-- In the first half of the period SIN_S3 is SIN_S2 of the mirrored argument. -/
theorem sinS3Fn_of_lt_half {k : Ctx} (hx : isFinite x = true) (h : value x < 1 / 2) :
    sinS3Fn k x = sinS2Fn k (mirrored k.nan x) := by
  have hhalf := (flt_half_iff hx).2 h
  rw [sinS3Fn, mirrored, apply_ite (sinS2Fn k), if_pos hhalf, if_pos hhalf]

/-- In the second half of the period SIN_S3 is the negation of SIN_S2 of the mirrored argument. -/
theorem sinS3Fn_of_half_le {k : Ctx} (hx : isFinite x = true) (h : 1 / 2 ≤ value x) :
    sinS3Fn k x = fneg (sinS2Fn k (mirrored k.nan x)) := by
  have hquarter := mt (flt_quarter_iff hx).1 (by linarith)
  have hhalf := mt (flt_half_iff hx).1 h.not_gt
  rw [sinS3Fn, mirrored, if_neg hquarter, if_neg hquarter, if_neg hhalf, if_neg hhalf, apply_ite (sinS2Fn k),
    apply_ite fneg]

/-- Each mirrored argument is exact, because both operands of its subtraction are at least a quarter. -/
theorem value_mirrored_second (hx : isFinite x = true) (hlo : 1 / 4 ≤ value x) (hhi : value x < 1 / 2) :
    isFinite (mirrored nan x) = true ∧ value (mirrored nan x) = 1 / 2 - value x := by
  rw [mirrored_second hx hlo hhi, ← value_f0_5]
  exact fsub_exact_of_quarter_le (by decide) hx (by rw [value_f0_5]; norm_num) hlo
    (by rw [value_f0_5, abs_le]; constructor <;> linarith)

theorem value_mirrored_third (hx : isFinite x = true) (hlo : 1 / 2 ≤ value x) (hhi : value x < 3 / 4) :
    isFinite (mirrored nan x) = true ∧ value (mirrored nan x) = value x - 1 / 2 := by
  rw [mirrored_third hx hlo hhi, ← value_f0_5]
  exact fsub_exact_of_quarter_le hx (by decide) (by linarith) (by rw [value_f0_5]; norm_num)
    (by rw [value_f0_5, abs_le]; constructor <;> linarith)

theorem value_mirrored_fourth (hx : isFinite x = true) (hlo : 3 / 4 ≤ value x) (hhi : value x ≤ 1) :
    isFinite (mirrored nan x) = true ∧ value (mirrored nan x) = 1 - value x := by
  rw [mirrored_fourth hx hlo, ← value_f1]
  exact fsub_exact_of_quarter_le (by decide) hx (by rw [value_f1]; norm_num) (by linarith)
    (by rw [value_f1, abs_le]; constructor <;> linarith)

theorem domSinS2_mirrored (h : domSinS3 x = true) : domSinS2 (mirrored nan x) = true := by
  obtain ⟨hx, hlo, hhi⟩ := (domSinS3_iff x).1 h
  rw [domSinS2_iff]
  obtain h1 | h1 := lt_or_ge (value x) (1 / 4)
  · rw [mirrored_first hx h1]
    exact ⟨hx, hlo, h1.le⟩
  obtain h2 | h2 := lt_or_ge (value x) (1 / 2)
  · obtain ⟨hfin, hvalue⟩ := value_mirrored_second (nan := nan) hx h1 h2
    exact ⟨hfin, by linarith, by linarith⟩
  obtain h3 | h3 := lt_or_ge (value x) (3 / 4)
  · obtain ⟨hfin, hvalue⟩ := value_mirrored_third (nan := nan) hx h2 h3
    exact ⟨hfin, by linarith, by linarith⟩
  · obtain ⟨hfin, hvalue⟩ := value_mirrored_fourth (nan := nan) hx h3 hhi
    exact ⟨hfin, by linarith, by linarith⟩

end Quadrants

/-- Settles O43: the mirrored argument by quadrant, and the sign by half period. -/
theorem sinStageThreeFoldsTheQuadrants : Obligations.SinStageThreeFoldsTheQuadrants := by
  intro s a b ha
  dsimp only
  obtain ⟨hfin, -, hhi⟩ := (domSinS3_iff a).1 ha
  have hdom := domSinS2_mirrored (nan := s.ctx.nan) ha
  refine ⟨_, _, hdom, exec_sinS2_inside s b hdom, fun h1 => ⟨mirrored_first hfin h1, ?_⟩,
    fun h1 h2 => ⟨mirrored_second hfin h1 h2, (value_mirrored_second hfin h1 h2).2, ?_⟩,
    fun h2 h3 => ⟨mirrored_third hfin h2 h3, (value_mirrored_third hfin h2 h3).2, ?_⟩,
    fun h3 => ⟨mirrored_fourth hfin h3, (value_mirrored_fourth hfin h3 hhi).2, ?_⟩⟩
  · rw [exec_sinS3_inside s b ha, sinS3Fn_of_lt_half hfin (by linarith)]
  · rw [exec_sinS3_inside s b ha, sinS3Fn_of_lt_half hfin h2]
  · rw [exec_sinS3_inside s b ha, sinS3Fn_of_half_le hfin h2]
  · rw [exec_sinS3_inside s b ha, sinS3Fn_of_half_le hfin (by linarith)]

/-! ### The phase (R88, R89) -/

section Phase

variable {x : Word}

/-- The phase of a finite number of periods: its fractional part, rounded, which may be 1 (90 C7). -/
theorem domSinS3_phase (k : Ctx) (hx : isFinite x = true) : domSinS3 (phase k x) = true := by
  obtain ⟨hfin, -, hfloor⟩ := floorFn_spec k hx
  have hneg : isFinite (fneg (floorFn k x)) = true := (isFinite_fneg _).trans hfin
  have hfraction : units x + units (fneg (floorFn k x)) = units x % oneUnits := by
    rw [units_fneg, hfloor, ← sub_eq_add_neg, Int.emod_def, mul_comm]
  have hpos : (0 : ℤ) < oneUnits := by exact_mod_cast oneUnits_pos
  have hge := Int.emod_nonneg (units x) hpos.ne'
  have hlt := Int.emod_lt_of_pos (units x) hpos
  have hone : mag f1 = oneUnits := by decide +kernel
  have hlow : low (phase k x) ≤ low f1 := low_fadd_le hx hneg (by decide) (by rw [hfraction]; omega)
  have hunits : 0 ≤ units (phase k x) := units_fadd_nonneg hx hneg (by rw [hfraction]; exact hge)
  have hle : units (phase k x) ≤ units f1 := by
    have hmag := natAbs_units (phase k x)
    have hmagle := mag_le_mag hlow
    rw [units_f1]
    omega
  have hzero : units posZero = 0 := by decide
  rw [domSinS3_iff, ← value_f1, ← value_posZero, value_le_value_iff, value_le_value_iff, hzero]
  exact ⟨isFinite_of_low_le (by decide) hlow, hunits, hle⟩

/-- The SIN_S3 command of the phase of `t`, after the FLOOR command of `t`. -/
theorem exec_phase (s : State) (b : Word) {t : Word} (ht : isFinite t = true) :
    ∃ f v, exec (.floor t b) s = .next (s.respond f) ∧ domSinS3 (fsub s.ctx.nan t f) = true ∧
      exec (.sinS3 (fsub s.ctx.nan t f) b) s = .next (s.respond v) ∧ v = sinS3Fn s.ctx (phase s.ctx t) := by
  have hdom := domSinS3_phase s.ctx ht
  exact ⟨floorFn s.ctx t, _, exec_floor_inside s t b (by simp [domFloor, ht]), hdom, exec_sinS3_inside s b hdom, rfl⟩

/-- A quotient by `TWO_PI`, which is above 4, is at most `2^1022`. -/
theorem low_fdiv_twoPi_le (nan : Word) (hx : isFinite x = true) : low (fdiv nan x twoPi) ≤ low (pow2i 1022) := by
  cases hz : isZero x
  case true =>
    rw [fdiv_of_isZero_left hz (by decide) (by decide)]
    split <;> decide
  case false =>
    have hdivisor : 4 * oneUnits ≤ mag twoPi := by decide +kernel
    have hinf : mag posInf = 4 * mag (pow2i 1022) := by decide +kernel
    have hlt : mag x < mag posInf := mag_lt_of_isFinite_isInf hx (by decide)
    rw [fdiv_of_isFinite hx (by decide) hz (by decide)]
    refine low_fround_le _ (by decide) (mag_pos (by decide)) ?_
    calc mag x * oneUnits ≤ mag posInf * oneUnits := Nat.mul_le_mul_right _ hlt.le
      _ = mag (pow2i 1022) * (4 * oneUnits) := by rw [hinf]; ring
      _ ≤ mag (pow2i 1022) * mag twoPi := Nat.mul_le_mul_left _ hdivisor

theorem isFinite_fdiv_twoPi (nan : Word) (hx : isFinite x = true) : isFinite (fdiv nan x twoPi) = true :=
  isFinite_of_low_le (by decide) (low_fdiv_twoPi_le nan hx)

theorem isFinite_quarter_shifted (nan : Word) (hx : isFinite x = true) :
    isFinite (fadd nan (fdiv nan x twoPi) f0_25) = true := by
  have hmag := mag_le_mag (low_fdiv_twoPi_le nan hx)
  have hbound : mag (pow2i 1022) + mag f0_25 ≤ mag (pow2i 1023) := by decide +kernel
  refine isFinite_of_low_le (w := pow2i 1023) (by decide)
    (low_fadd_le (isFinite_fdiv_twoPi nan hx) (by decide) (by decide) ?_)
  have hsum := Int.natAbs_add_le (units (fdiv nan x twoPi)) (units f0_25)
  rw [natAbs_units, natAbs_units] at hsum
  omega

end Phase

/-- Settles O44: a quotient by `TWO_PI` is finite, so it has a phase. -/
theorem sinReducesToThePhase : Obligations.SinReducesToThePhase := by
  intro s a b ha
  have ht := isFinite_fdiv_twoPi s.ctx.nan ha
  obtain ⟨f, v, hfloor, hdom, hexec, hv⟩ := exec_phase s b ht
  exact ⟨f, v, hfloor, ht, hdom, hexec, hv ▸ exec_sin_inside s b ha⟩

/-- Settles O45: a quarter added to the quotient leaves it finite. -/
theorem cosReducesToTheShiftedPhase : Obligations.CosReducesToTheShiftedPhase := by
  intro s a b ha
  have ht := isFinite_quarter_shifted s.ctx.nan ha
  obtain ⟨f, v, hfloor, hdom, hexec, hv⟩ := exec_phase s b ht
  exact ⟨f, v, hfloor, ht, hdom, hexec, hv ▸ exec_cos_inside s b ha⟩

/-! ### The zeros and the quarter period (R88, R89, R90) -/

/-- A zero has phase `+0.0`, whatever its sign. -/
theorem phase_of_isZero (k : Ctx) {t : Word} (h : isZero t = true) : phase k t = posZero := by
  rw [phase, floorFn_of_isInf_or_isZero k (.inr h), fsub_self (isFinite_of_isZero h)]

theorem phase_half (k : Ctx) : phase k f0_5 = f0_5 := by
  obtain ⟨-, -, hunits⟩ := floorFn_spec k (x := f0_5) (by decide)
  have hzero : isZero (floorFn k f0_5) = true := by
    rw [← units_eq_zero_iff, hunits]
    decide +kernel
  exact fsub_of_isZero_right (by decide) (by decide) hzero

theorem fdiv_halfPi_twoPi (nan : Word) : fdiv nan halfPi twoPi = f0_25 := by
  rw [fdiv_of_isFinite (by decide) (by decide) (by decide) (by decide)]
  decide +kernel

theorem fadd_quarter_quarter (nan : Word) : fadd nan f0_25 f0_25 = f0_5 := by
  rw [fadd_of_isFinite (by decide) (by decide) (.inl (by decide))]
  decide +kernel

section Zeros

variable {k : Ctx} (hwf : k.cfg.wellFormed = true) (hpos : k.cfg.sinLeadPositive = true)

include hwf hpos

theorem sinFn_of_isZero {x : Word} (hx : isZero x = true) : sinFn k x = posZero := by
  have hquot : isZero (fdiv k.nan x twoPi) = true := by
    rw [fdiv_of_isZero_left hx (by decide) (by decide)]
    split <;> decide
  rw [sinFn, phase_of_isZero k hquot, sinS3Fn_of_lt_half (by decide) (by rw [value_posZero]; norm_num),
    mirrored_first (by decide) (by rw [value_posZero]; norm_num), sinS2Fn_posZero hwf hpos]

/-- The phase of the cosine of `HALF_PI` is a half, where SIN_S3 negates the sine of `+0.0`. -/
theorem cosFn_halfPi : cosFn k halfPi = negZero := by
  rw [cosFn, fdiv_halfPi_twoPi, fadd_quarter_quarter, phase_half,
    sinS3Fn_of_half_le (by decide) value_f0_5.ge,
    mirrored_third (by decide) value_f0_5.ge (by rw [value_f0_5]; norm_num), fsub_self (by decide),
    sinS2Fn_posZero hwf hpos]
  decide

end Zeros

/-- Settles O46: the phases of the two operands are exact, and SIN_S2 gives `+0.0` at `+0.0`. -/
theorem sinOfZeroAndCosOfHalfPi : Obligations.SinOfZeroAndCosOfHalfPi := by
  intro s b hwf hpos
  refine ⟨?_, ?_, ?_⟩
  · rw [exec_sin_inside s b (by decide), sinFn_of_isZero (k := s.ctx) hwf hpos (by decide)]
  · rw [exec_sin_inside s b (by decide), sinFn_of_isZero (k := s.ctx) hwf hpos (by decide)]
  · rw [← cosFn_halfPi (k := s.ctx) hwf hpos]
    exact exec_cos_inside s b (by decide)

end Sys2Proof
end

section
/-!
PROOFS. Arctangent (spec R95 to R100): the odd polynomial, the partition of the non-negative operands, the addition
formula around a partition angle, the odd symmetry, and the four quadrants of ATAN2.
-/

namespace Sys2Proof

open Sys2Proof.Machine

/-! ### The commands inside their domains (R78) -/

section Commands

variable {a : Word} (s : State) (b : Word)

theorem exec_atanS1_inside (h : domAtanS1 s.cfg a = true) :
    exec (.atanS1 a b) s = .next (s.respond (atanS1Fn s.ctx a)) :=
  (everyCommandCompletes (.atanS1 a b) s).1 h

theorem exec_atanS2_inside (h : domAtanS2 a = true) : exec (.atanS2 a b) s = .next (s.respond (atanS2Fn s.ctx a)) :=
  (everyCommandCompletes (.atanS2 a b) s).1 h

theorem exec_atan_inside (h : isNaN a = false) : exec (.atan a b) s = .next (s.respond (atanFn s.ctx a)) :=
  (everyCommandCompletes (.atan a b) s).1 ((domAtan_iff a).2 h)

theorem exec_atan2_inside {y x : Word} (hy : isFinite y = true) (hx : isFinite x = true) :
    exec (.atan2 y x) s = .next (s.respond (atan2Fn s.ctx y x)) :=
  (everyCommandCompletes (.atan2 y x) s).1 (Bool.and_eq_true_iff.2 ⟨hy, hx⟩)

end Commands

/-! ### Comparisons in units (R67) -/

theorem flt_iff_units {x y : Word} (hx : isNaN x = false) (hy : isNaN y = false) :
    flt x y = true ↔ units x < units y := by
  rw [flt, (ordered_iff x y).2 ⟨hx, hy⟩, Bool.true_and, decide_eq_true_iff]

theorem fgt_eq_flt (x y : Word) : fgt x y = flt y x := by
  rw [fgt, flt, ordered, ordered, Bool.and_comm (!isNaN x)]

theorem units_posZero : units posZero = 0 := by decide

/-- Every finite pattern is below `+inf`. -/
theorem flt_posInf {x : Word} (h : isFinite x = true) : flt x posInf = true := by
  have hlt := mag_lt_of_isFinite_isInf h (w := posInf) (by decide)
  have hx := natAbs_units x
  have hinf : units posInf = mag posInf := units_of_sign_false (by decide)
  rw [flt_iff_units (not_isNaN_of_isFinite h) (by decide)]
  omega

/-! ### Rounding and positive sums (R61, R62) -/

/-- A rounded number stays above every finite pattern whose magnitude does not exceed it. -/
theorem le_low_fround (neg : Bool) {p q : Nat} {w : Word} (hw : isFinite w = true) (hq : 0 < q) (h : mag w * q ≤ p) :
    low w ≤ low (fround neg p q) := by
  have hcap : roundMag p q ≤ 2047 * 2 ^ 52 := min_le_right _ _
  rw [fround, low_signed neg (by omega), ← roundMag_mag hw]
  exact roundMag_mono one_pos hq (by rwa [mul_one])

/-- A sum of a non-negative and a positive operand is positive: it is no less than the latter (R61). -/
theorem flt_posZero_fadd {nan x y : Word} (hx : isFinite x = true) (hy : isNaN y = false) (hnonneg : 0 ≤ units x)
    (hpos : 0 < units y) : flt posZero (fadd nan x y) = true := by
  obtain hyfin | hyinf := isFinite_or_isInf hy
  · have hzy : isZero y = false := by
      rw [← Bool.not_eq_true, ← units_eq_zero_iff]
      exact hpos.ne'
    have hyunits := natAbs_units y
    rw [fadd_of_isFinite hx hyfin (.inr hzy), if_neg (by omega), decide_eq_false (by omega),
      flt_iff_units (by decide) (fround_not_nan _ _ _), units_posZero, units_of_sign_false (sign_fround _ _ _)]
    have hle := le_low_fround false (p := (units x + units y).natAbs) hyfin one_pos (by omega)
    exact_mod_cast (mag_pos hzy).trans_le (mag_le_mag hle)
  · rw [fadd_of_isInf_right hx hyinf, flt_iff_units (by decide) hy, units_posZero]
    exact hpos

/-! ### Well-formed tables (R5) -/

/-- Every entry but the first is in the rest of its table. -/
theorem getElem_mem_drop_one {α : Type} (v : Vector α 9) {i : Fin 9} (hi : i ≠ 0) : v[i] ∈ v.toList.drop 1 := by
  have hpos : 1 ≤ i.val := Nat.pos_of_ne_zero (Fin.val_ne_of_ne hi)
  refine List.mem_drop_iff_getElem.2 ⟨i.val - 1, by simp; omega, ?_⟩
  simp [Nat.add_sub_cancel' hpos]

section WellFormed

variable {c : Cfg} (h : c.wellFormed = true)

include h

theorem atanC_isFinite : ∀ t ∈ c.atanC.toList, isFinite t = true := by
  simp only [Cfg.wellFormed, Cfg.coeffsFinite, Bool.and_eq_true, List.all_eq_true] at h
  tauto

/-- The bounds of the partitions: all but the last positive and finite, in increasing order up to `+inf`. -/
theorem atanX_bounds :
    (∀ i : Fin 9, i < 8 → isFinite c.atanX[i] = true ∧ flt posZero c.atanX[i] = true) ∧
    (∀ i : Fin 8, i < 7 → flt c.atanX[i.castSucc] c.atanX[i.succ] = true) ∧ c.atanX[8] = posInf := by
  simp only [Cfg.wellFormed, Cfg.boundsSorted, Bool.and_eq_true, List.all_eq_true, beq_iff_eq, and_assoc] at h
  obtain ⟨-, hall, h0, h1, h2, h3, h4, h5, h6, hlast, -⟩ := h
  refine ⟨fun i hi => hall _ ?_, fun i hi => ?_, hlast⟩
  · fin_cases i <;> simp at hi ⊢
  · fin_cases i
    exacts [h0, h1, h2, h3, h4, h5, h6, absurd hi (by decide)]

theorem atanX_of_lt {i : Fin 9} (hi : i < 8) : isFinite c.atanX[i] = true ∧ 0 < units c.atanX[i] := by
  obtain ⟨hfin, hpos⟩ := (atanX_bounds h).1 i hi
  rw [flt_iff_units (by decide) (not_isNaN_of_isFinite hfin), units_posZero] at hpos
  exact ⟨hfin, hpos⟩

theorem atanX_last : c.atanX[8] = posInf := (atanX_bounds h).2.2

theorem not_isNaN_atanX (i : Fin 9) : isNaN c.atanX[i] = false := by
  obtain hi | rfl := (Fin.le_last i).lt_or_eq
  · exact not_isNaN_of_isFinite (atanX_of_lt h hi).1
  · exact (congrArg isNaN (atanX_last h)).trans (by decide)

theorem flt_atanX_succ (i : Fin 8) : flt c.atanX[i.castSucc] c.atanX[i.succ] = true := by
  obtain hi | rfl := (Fin.le_last i).lt_or_eq
  · exact (atanX_bounds h).2.1 i hi
  · obtain ⟨hfin, -⟩ := atanX_of_lt h (i := (Fin.last 7).castSucc) (by decide)
    rw [show c.atanX[(Fin.last 7).succ] = posInf from atanX_last h]
    exact flt_posInf hfin

/-- The bounds stand in the order of their indices, the sentinel `+inf` last. -/
theorem flt_atanX_iff (j k : Fin 9) : flt c.atanX[j] c.atanX[k] = true ↔ j < k := by
  have hmono : StrictMono fun i : Fin 9 => units c.atanX[i] := Fin.strictMono_iff_lt_succ.2 fun i =>
    (flt_iff_units (not_isNaN_atanX h _) (not_isNaN_atanX h _)).1 (flt_atanX_succ h i)
  rw [flt_iff_units (not_isNaN_atanX h j) (not_isNaN_atanX h k)]
  exact hmono.lt_iff_lt

/-- Both reciprocals that ATAN_S2 reads are finite, of a non-negative value (entry 0 is never read, R103). -/
theorem reciprocal_nonneg {i : Fin 9} (hi : i ≠ 0) {x : Word} (hx : x = c.atanRcp[i] ∨ x = c.atanRcp2p1[i]) :
    isFinite x = true ∧ 0 ≤ units x := by
  simp only [Cfg.wellFormed, Cfg.reciprocalsNonneg, Bool.and_eq_true, List.all_eq_true, and_assoc] at h
  obtain ⟨-, -, hall, -⟩ := h
  have hmem : x ∈ c.atanRcp.toList.drop 1 ++ c.atanRcp2p1.toList.drop 1 := by
    obtain rfl | rfl := hx
    · exact List.mem_append_left _ (getElem_mem_drop_one _ hi)
    · exact List.mem_append_right _ (getElem_mem_drop_one _ hi)
  obtain ⟨hfin, hle⟩ := hall x hmem
  obtain ⟨hzero, hnan, hle⟩ := (fle_iff _ _).1 hle
  rw [extended_le_iff hzero hnan, units_posZero] at hle
  exact ⟨hfin, hle⟩

end WellFormed

/-! ### The stage polynomial (R95) -/

/-- Horner's scheme of the six entries of `ATAN_C`, written out. -/
theorem atanS1Fn_eq (k : Ctx) (x : Word) :
    let step := fun p c : Word => fadd k.nan (fmul k.nan p (fmul k.nan x x)) c
    atanS1Fn k x = fmul k.nan (step (step (step (step (step k.cfg.atanC[5] k.cfg.atanC[4]) k.cfg.atanC[3])
      k.cfg.atanC[2]) k.cfg.atanC[1]) k.cfg.atanC[0]) x := by
  rw [atanS1Fn, vector_six_toList]
  rfl

theorem atanS1Fn_of_isZero {k : Ctx} {x : Word} (hwf : k.cfg.wellFormed = true)
    (hpos : k.cfg.atanLeadPositive = true) (hx : isZero x = true) : atanS1Fn k x = x := by
  have hfin := atanC_isFinite hwf
  rw [vector_six_toList] at hfin
  rw [atanS1Fn, vector_six_toList]
  exact oddpoly_of_isZero hfin hpos hx

/-- Finite coefficients give a zero at `+0.0`, whatever the sign of the lowest. -/
theorem isZero_atanS1Fn_posZero {k : Ctx} (hwf : k.cfg.wellFormed = true) :
    isZero (atanS1Fn k posZero) = true := by
  have hfin := atanC_isFinite hwf
  rw [vector_six_toList] at hfin
  rw [atanS1Fn, vector_six_toList, oddpoly, fmul_eq_posZero (.inl (by decide)) (by decide) (by decide) rfl,
    fmul_of_isZero (.inr (by decide)) (horner_posZero hfin).1 (by decide)]
  split <;> decide

/-- Settles O47: Horner's scheme of six entries written out, and its value at the zeros. -/
theorem atanStageOneEvaluates : Obligations.AtanStageOneEvaluates := by
  intro s a b ha
  dsimp only
  refine ⟨?_, fun hz hwf hpos => ?_⟩
  · rw [exec_atanS1_inside s b ha, atanS1Fn_eq, State.ctx_cfg]
  · rw [exec_atanS1_inside s b ha, atanS1Fn_of_isZero (k := s.ctx) hwf hpos hz]

/-! ### The partition index (R96) -/

theorem mem_comparedIndices (j : Fin 9) : j ∈ comparedIndices ↔ j < 8 := by
  revert j
  decide

theorem atanIndex_cases (c : Cfg) (x : Word) :
    comparedIndices.find? (fun i => flt x c.atanX[i]) = some (atanIndex c x) ∨
    comparedIndices.find? (fun i => flt x c.atanX[i]) = none ∧ atanIndex c x = 8 := by
  unfold atanIndex
  cases comparedIndices.find? fun i => flt x c.atanX[i] with
  | none => exact .inr ⟨rfl, rfl⟩
  | some i => exact .inl rfl

/-- The selection stops at the first compared bound above the operand, and at 8 when there is none. -/
theorem atanIndex_spec (c : Cfg) (x : Word) :
    (∀ j : Fin 9, j < atanIndex c x → flt x c.atanX[j] = false) ∧
    (atanIndex c x < 8 → flt x c.atanX[atanIndex c x] = true) := by
  have hcompared : ∀ j < atanIndex c x, j ∈ comparedIndices := fun j hj =>
    (mem_comparedIndices j).2 (hj.trans_le (Fin.le_last _))
  obtain hfind | ⟨hfind, hlast⟩ := atanIndex_cases c x
  · obtain ⟨hself, before, after, hsplit, hbefore⟩ := List.find?_eq_some_iff_append.1 hfind
    refine ⟨fun j hj => ?_, fun _ => hself⟩
    have hsorted : comparedIndices.Pairwise (· < ·) := by decide
    have hmem := hcompared j hj
    rw [hsplit] at hsorted hmem
    obtain ⟨-, hafter, -⟩ := List.pairwise_append.1 hsorted
    obtain hj' | hj' := List.mem_append.1 hmem
    · simpa using hbefore j hj'
    obtain rfl | hj' := List.mem_cons.1 hj'
    · exact absurd hj (lt_irrefl _)
    · exact absurd hj ((List.pairwise_cons.1 hafter).1 j hj').not_gt
  · exact ⟨fun j hj => Bool.eq_false_iff.2 (List.find?_eq_none.1 hfind j (hcompared j hj)),
      fun h => absurd hlast h.ne⟩

/-- There is one least index, so whatever has its two properties is the partition index. -/
theorem atanIndex_eq {c : Cfg} {x : Word} {i : Fin 9} (hlower : ∀ j < i, flt x c.atanX[j] = false)
    (hself : i < 8 → flt x c.atanX[i] = true) : atanIndex c x = i := by
  obtain ⟨hlower', hself'⟩ := atanIndex_spec c x
  obtain hlt | heq | hgt := lt_trichotomy (atanIndex c x) i
  · exact absurd (hself' (hlt.trans_le (Fin.le_last i))) (Bool.eq_false_iff.1 (hlower _ hlt))
  · exact heq
  · exact absurd (hself (hgt.trans_le (Fin.le_last _))) (Bool.eq_false_iff.1 (hlower' _ hgt))

/-- Each bound but the last belongs to the partition above it. -/
theorem atanIndex_atanX {c : Cfg} (h : c.wellFormed = true) (k : Fin 8) :
    atanIndex c c.atanX[k.castSucc] = k.succ := by
  refine atanIndex_eq (fun j hj => ?_) fun _ => flt_atanX_succ h k
  rw [← Bool.not_eq_true, flt_atanX_iff h]
  exact (Fin.le_castSucc_iff.2 hj).not_gt

theorem atanIndex_posInf {c : Cfg} (h : c.wellFormed = true) : atanIndex c posInf = 8 := by
  refine atanIndex_eq (fun j hj => ?_) fun hlt => absurd hlt (lt_irrefl _)
  rw [← Bool.not_eq_true, ← atanX_last h]
  exact mt (flt_atanX_iff h 8 j).1 hj.not_gt

theorem atanIndex_of_isNaN (c : Cfg) {x : Word} (h : isNaN x = true) : atanIndex c x = 8 :=
  atanIndex_eq (fun _ _ => flt_of_nan_left _ h) fun hlt => absurd hlt (lt_irrefl _)

/-- Settles O48: the selection is the least index, and the bounds of a well-formed table increase. -/
theorem partitionIndexIsTheLeast : Obligations.PartitionIndexIsTheLeast := by
  refine fun c x => ⟨(atanIndex_spec c x).1, (atanIndex_spec c x).2, fun hwf k hk hx => ?_,
    fun hwf hx => hx ▸ atanIndex_posInf hwf, atanIndex_of_isNaN c⟩
  obtain ⟨k, rfl⟩ := Fin.exists_castSucc_eq.2 hk.ne
  rw [hx, atanIndex_atanX hwf, Fin.val_succ, Fin.val_castSucc]

/-! ### The addition formula (R98) -/

section AdditionFormula

variable {k : Ctx} {x : Word}

theorem atanS2Fn_of_index_zero (hi : atanIndex k.cfg x = 0) : atanS2Fn k x = atanS1Fn k x := if_pos hi

theorem atanS2Fn_of_reduced_neg (hi : atanIndex k.cfg x ≠ 0)
    (ht : flt (atanReduced k (atanIndex k.cfg x) x) posZero = true) :
    atanS2Fn k x = fsub k.nan (atanAngle k (atanIndex k.cfg x))
      (atanS1Fn k (fneg (atanReduced k (atanIndex k.cfg x) x))) :=
  (if_neg hi).trans (if_pos ht)

theorem atanS2Fn_of_reduced_not_neg (hi : atanIndex k.cfg x ≠ 0)
    (ht : flt (atanReduced k (atanIndex k.cfg x) x) posZero = false) :
    atanS2Fn k x = fadd k.nan (atanAngle k (atanIndex k.cfg x))
      (atanS1Fn k (atanReduced k (atanIndex k.cfg x) x)) :=
  (if_neg hi).trans (if_neg (Bool.not_eq_true _ ▸ ht))

end AdditionFormula

/-- An operand outside partition 0 is at least the first bound, which is positive. -/
theorem units_pos_of_atanIndex_ne_zero {c : Cfg} {x : Word} (hwf : c.wellFormed = true) (hx : isNaN x = false)
    (hi : atanIndex c x ≠ 0) : 0 < units x := by
  obtain ⟨hfin, hpos⟩ := atanX_of_lt hwf (i := 0) (by decide)
  have hfirst : flt x c.atanX[(0 : Fin 9)] = false := (atanIndex_spec c x).1 0 (Fin.pos_of_ne_zero hi)
  rw [← Bool.not_eq_true, flt_iff_units hx (not_isNaN_of_isFinite hfin)] at hfirst
  omega

/-- Settles O49: the three branches of R98, and a divisor of at least the operand. -/
theorem atanStageTwoAddsThePartitionAngle : Obligations.AtanStageTwoAddsThePartitionAngle := by
  intro s a b ha
  dsimp only
  refine ⟨fun hi => ?_, fun hi ht => ?_, fun hi ht => ?_, fun hi hwf => ?_⟩
  · rw [exec_atanS2_inside s b ha, atanS2Fn_of_index_zero (k := s.ctx) hi, atanS1Fn_eq, State.ctx_cfg]
  · rw [exec_atanS2_inside s b ha, atanS2Fn_of_reduced_neg (k := s.ctx) hi ht, atanS1Fn_eq]
    rfl
  · rw [exec_atanS2_inside s b ha, atanS2Fn_of_reduced_not_neg (k := s.ctx) hi ht, atanS1Fn_eq]
    rfl
  · have hnan := ((domAtanS2_iff a).1 ha).1
    obtain ⟨hfin, hnonneg⟩ := reciprocal_nonneg hwf hi (.inl rfl)
    exact flt_posZero_fadd hfin hnan hnonneg (units_pos_of_atanIndex_ne_zero hwf hnan hi)

/-! ### The infinities (R98, R99) -/

theorem atanAngle_last (k : Ctx) : atanAngle k 8 = halfPi := by
  have hsixteen : i2f (2 * ((8 : Fin 9).val : ℤ)) = 0x4030000000000000#64 := by decide +kernel
  rw [atanAngle, hsixteen, fmul_of_isFinite (by decide) (by decide) (by decide) (by decide)]
  decide +kernel

/-- With the last reciprocal zero the reduced argument of `+inf` is `+0.0`, whatever the sign of the zero quotient. -/
theorem atanReduced_posInf {k : Ctx} (hwf : k.cfg.wellFormed = true) (hrcp : k.cfg.atanRcp[8] = posZero) :
    atanReduced k 8 posInf = posZero := by
  have hsum : fadd k.nan posZero posInf = posInf := fadd_of_isInf_right (by decide) (by decide)
  have hd : isFinite k.cfg.atanRcp2p1[(8 : Fin 9)] = true := (reciprocal_nonneg hwf (by decide) (.inr rfl)).1
  have hc : k.cfg.atanRcp[(8 : Fin 9)] = posZero := hrcp
  simp only [atanReduced, hc, hsum, fdiv_of_isInf_right hd (show isInf posInf = true by decide)]
  split
  · rw [fsub, fadd_of_isZero (by decide) (by decide), if_pos (by decide)]
  · exact fsub_self (by decide)

theorem atanS2Fn_posInf {k : Ctx} (hwf : k.cfg.wellFormed = true) (hrcp : k.cfg.atanRcp[8] = posZero) :
    atanS2Fn k posInf = halfPi := by
  have hi := atanIndex_posInf hwf
  have ht := atanReduced_posInf hwf hrcp
  rw [atanS2Fn_of_reduced_not_neg (by rw [hi]; decide) (by rw [hi, ht]; decide), hi, ht, atanAngle_last]
  exact fadd_of_isZero_right (by decide) (by decide) (isZero_atanS1Fn_posZero hwf)

/-! ### Odd symmetry (R99) -/

theorem atanFn_of_neg {k : Ctx} {x : Word} (h : flt x posZero = true) : atanFn k x = fneg (atanS2Fn k (fneg x)) :=
  if_pos h

theorem atanFn_of_not_neg {k : Ctx} {x : Word} (h : flt x posZero = false) : atanFn k x = atanS2Fn k x :=
  if_neg (Bool.not_eq_true _ ▸ h)

/-- Negation turns the one branch of R99 into the other. -/
theorem flt_fneg_posZero {x : Word} (hnan : isNaN x = false) (hzero : isZero x = false) :
    flt (fneg x) posZero = !flt x posZero := by
  have hne := units_ne_zero hzero
  rw [Bool.eq_iff_iff, Bool.not_eq_true', ← Bool.not_eq_true, flt_iff_units ((isNaN_fneg x).trans hnan) (by decide),
    flt_iff_units hnan (by decide), units_fneg, units_posZero]
  omega

theorem atanFn_fneg (k : Ctx) {x : Word} (hnan : isNaN x = false) (hzero : isZero x = false) :
    atanFn k (fneg x) = fneg (atanFn k x) := by
  have hflip := flt_fneg_posZero hnan hzero
  cases hneg : flt x posZero
  · rw [atanFn_of_neg (by rw [hflip, hneg]; rfl), atanFn_of_not_neg hneg, fneg_fneg]
  · rw [atanFn_of_not_neg (by rw [hflip, hneg]; rfl), atanFn_of_neg hneg, fneg_fneg]

/-- Settles O50: ATAN_S2 at `+inf` adds a zero to the last partition angle, which is `HALF_PI`. -/
theorem atanOfInfinityIsHalfPi : Obligations.AtanOfInfinityIsHalfPi := by
  intro s b hwf hrcp
  have hS2 := atanS2Fn_posInf (k := s.ctx) hwf hrcp
  have hatan : atanFn s.ctx posInf = halfPi := (atanFn_of_not_neg (by decide +kernel)).trans hS2
  refine ⟨?_, ?_, ?_⟩
  · rw [exec_atanS2_inside s b (by decide), hS2]
    rfl
  · rw [exec_atan_inside s b (by decide), hatan]
    rfl
  · rw [exec_atan_inside s b (by decide), show negInf = fneg posInf by decide,
      atanFn_fneg s.ctx (by decide) (by decide), hatan]
    rfl

/-- Settles O51: the two branches of R99, which negation exchanges. -/
theorem atanIsOdd : Obligations.AtanIsOdd := by
  refine fun s a b hnan => ⟨fun h => ?_, fun h => ?_, fun hzero => ⟨_, exec_atan_inside s b hnan, ?_⟩⟩
  · rw [exec_atan_inside s b hnan, atanFn_of_not_neg h]
  · rw [exec_atan_inside s b hnan, atanFn_of_neg h]
  · rw [exec_atan_inside s b ((isNaN_fneg a).trans hnan), atanFn_fneg s.ctx hnan hzero]

/-! ### The four quadrants (R100) -/

theorem fgt_posZero_iff {x : Word} (hx : isFinite x = true) : fgt x posZero = true ↔ 0 < value x := by
  rw [fgt_eq_flt, flt_iff_value (by decide) hx, value_posZero]

theorem flt_posZero_iff_value {x : Word} (hx : isFinite x = true) : flt x posZero = true ↔ value x < 0 := by
  rw [flt_iff_value hx (by decide), value_posZero]

/-- The quotient of a finite operand by one that is not a zero is a number or overflows to an infinity (R65). -/
theorem not_isNaN_fdiv {nan x y : Word} (hx : isFinite x = true) (hy : isFinite y = true) (hne : value y ≠ 0) :
    isNaN (fdiv nan x y) = false := by
  have hzy : isZero y = false := by rwa [← Bool.not_eq_true, ← value_eq_zero_iff]
  cases hzx : isZero x
  · rw [fdiv_of_isFinite hx hy hzx hzy]
    exact fround_not_nan _ _ _
  · rw [fdiv_of_isZero_left hzx (not_isNaN_of_isFinite hy) hzy]
    split <;> decide

section Quadrants

variable {k : Ctx} {y x : Word}

theorem atan2Fn_of_pos (hx : isFinite x = true) (h : 0 < value x) : atan2Fn k y x = atanFn k (fdiv k.nan y x) :=
  if_pos ((fgt_posZero_iff hx).2 h)

theorem atan2Fn_of_neg (hx : isFinite x = true) (h : value x < 0) :
    atan2Fn k y x = if flt y posZero then fsub k.nan (atanFn k (fdiv k.nan y x)) pi
      else fadd k.nan (atanFn k (fdiv k.nan y x)) pi :=
  (if_neg (mt (fgt_posZero_iff hx).1 h.not_gt)).trans (if_pos ((flt_posZero_iff_value hx).2 h))

/-- The third branch of R100, where `x` is a zero or a NaN. -/
theorem atan2Fn_of_neither (hgt : fgt x posZero = false) (hlt : flt x posZero = false) :
    atan2Fn k y x = if fgt y posZero then halfPi else if flt y posZero then fneg halfPi else k.cfg.nanPattern := by
  simp only [atan2Fn, hgt, hlt, Bool.false_eq_true, if_false]

theorem atan2Fn_of_zero (hx : isFinite x = true) (h : value x = 0) :
    atan2Fn k y x = if fgt y posZero then halfPi else if flt y posZero then fneg halfPi else k.cfg.nanPattern :=
  atan2Fn_of_neither (by rw [← Bool.not_eq_true, fgt_posZero_iff hx, h]; exact lt_irrefl _)
    (by rw [← Bool.not_eq_true, flt_posZero_iff_value hx, h]; exact lt_irrefl _)

end Quadrants

theorem fneg_halfPi : fneg halfPi = 0xBFF921FB54442D18#64 := by decide

/-- Settles O52: the branches of R100 by the values of two finite operands, the operands outside, and a NaN `x`. -/
theorem atanTwoDispatchesOnTheQuadrant : Obligations.AtanTwoDispatchesOnTheQuadrant := by
  refine ⟨fun s y x hy hx => ?_, fun s y x h => ?_, fun k y x h => ?_⟩
  · dsimp only
    have hquot := not_isNaN_fdiv (nan := s.ctx.nan) hy hx
    rw [exec_atan2_inside s hy hx]
    refine ⟨fun hpos => ⟨hquot hpos.ne', ?_⟩, fun hneg hyneg => ⟨hquot hneg.ne, ?_⟩,
      fun hneg hynonneg => ⟨hquot hneg.ne, ?_⟩, fun hzero hypos => ?_, fun hzero hyneg => ?_, fun hzero hyzero => ?_⟩
    · rw [atan2Fn_of_pos hx hpos]
    · rw [atan2Fn_of_neg hx hneg, if_pos ((flt_posZero_iff_value hy).2 hyneg)]
      rfl
    · rw [atan2Fn_of_neg hx hneg, if_neg (mt (flt_posZero_iff_value hy).1 hynonneg.not_gt)]
      rfl
    · rw [atan2Fn_of_zero hx hzero, if_pos ((fgt_posZero_iff hy).2 hypos)]
      rfl
    · rw [atan2Fn_of_zero hx hzero, if_neg (mt (fgt_posZero_iff hy).1 hyneg.not_gt),
        if_pos ((flt_posZero_iff_value hy).2 hyneg), fneg_halfPi]
    · rw [atan2Fn_of_zero hx hzero, if_neg (mt (fgt_posZero_iff hy).1 hyzero.le.not_gt),
        if_neg (mt (flt_posZero_iff_value hy).1 hyzero.ge.not_gt), State.ctx_cfg]
  · exact (everyCommandCompletes (.atan2 y x) s).2 (Bool.and_eq_false_iff.2 h)
  · rw [atan2Fn_of_neither (fgt_of_nan_left _ h) (flt_of_nan_left _ h), fneg_halfPi]
    rfl

end Sys2Proof
end

section
/-!
PROOFS. Base-2 exponential (spec R110 to R113): the rational stage and its value at the zeros, the two thresholds, the
exact scaled root, the shifted remainder in the stage's domain, and the change of base.
-/

namespace Sys2Proof

open Sys2Proof.Machine

/-! ### The commands inside their domains (R78) -/

section Commands

variable {a : Word} (s : State) (b : Word)

theorem exec_exp2S1_inside (h : domExp2S1 a = true) : exec (.exp2S1 a b) s = .next (s.respond (exp2S1Fn s.ctx a)) :=
  (everyCommandCompletes (.exp2S1 a b) s).1 h

theorem exec_exp2_inside (h : isNaN a = false) : exec (.exp2 a b) s = .next (s.respond (exp2Fn s.ctx a)) :=
  (everyCommandCompletes (.exp2 a b) s).1 ((domAtan_iff a).2 h)

theorem exec_exp_inside (h : isFinite a = true) : exec (.exp a b) s = .next (s.respond (expFn s.ctx a)) :=
  (everyCommandCompletes (.exp a b) s).1 h

end Commands

/-! ### The rational stage (R110) -/

theorem vector_three_toList {α : Type} (v : Vector α 3) : v.toList = [v[0], v[1], v[2]] := by
  match v with
  | ⟨⟨[_, _, _]⟩, _⟩ => rfl

theorem exp2_tables_isFinite {c : Cfg} (h : c.wellFormed = true) :
    (∀ t ∈ c.exp2P.toList, isFinite t = true) ∧ ∀ t ∈ c.exp2Q.toList, isFinite t = true := by
  simp only [Cfg.wellFormed, Cfg.coeffsFinite, Bool.and_eq_true, List.all_eq_true] at h
  tauto

/-- A finite pattern that is not a zero, divided by itself, is exactly 1.0 (R65). -/
theorem fdiv_self {nan x : Word} (hx : isFinite x = true) (hz : isZero x = false) : fdiv nan x x = f1 := by
  have hone := fround_mul_mul false (p := oneUnits) (mag_pos hz) one_pos
  rw [one_mul, mul_comm] at hone
  rw [fdiv_of_isFinite hx hx hz hz, Bool.xor_self, hone]
  decide +kernel

section ZeroOperand

variable {k : Ctx} {x : Word} (hwf : k.cfg.wellFormed = true) (hx : isZero x = true)

include hwf hx

theorem isZero_exp2Num : isZero (exp2Num k x) = true := by
  have hxfin := isFinite_of_isZero hx
  have hfin := (exp2_tables_isFinite hwf).1
  rw [vector_three_toList] at hfin
  rw [exp2Num, vector_three_toList, oddpoly, fmul_eq_posZero (.inl hx) hxfin hxfin rfl,
    fmul_of_isZero (.inr hx) (horner_posZero hfin).1 hxfin]
  split <;> decide

theorem exp2Den_of_isZero (hq : isZero k.cfg.exp2Q[0] = false) : exp2Den k x = k.cfg.exp2Q[0] := by
  have hxfin := isFinite_of_isZero hx
  have hfin := (exp2_tables_isFinite hwf).2
  rw [vector_three_toList] at hfin
  rw [exp2Den, vector_three_toList, fmul_eq_posZero (.inl hx) hxfin hxfin rfl]
  exact (horner_posZero hfin).2 hq

/-- EXP2_S1 of a zero of either sign: `P` is a zero, so the quotient is of `EXP2_Q[0]` by itself. -/
theorem exp2S1Fn_of_isZero (hden : k.cfg.exp2DenNonzero = true) : exp2S1Fn k x = f1 := by
  obtain ⟨hfin, hq⟩ : isFinite k.cfg.exp2Q[0] = true ∧ isZero k.cfg.exp2Q[0] = false := by
    simpa [Cfg.exp2DenNonzero] using hden
  have hnum := isZero_exp2Num hwf hx
  simp only [exp2S1Fn, exp2Den_of_isZero hwf hx hq, fadd_of_isZero_right hfin hq hnum,
    fsub_of_isZero_right hfin hq hnum, fdiv_self hfin hq]

end ZeroOperand

/-- Settles O53: both polynomials of three entries written out, and the quotient at the zeros. -/
theorem expStageOneEvaluates : Obligations.ExpStageOneEvaluates := by
  intro s a b ha
  dsimp only
  rw [exec_exp2S1_inside s b ha]
  refine ⟨?_, fun hz hwf hden => ?_⟩
  · rw [exp2S1Fn, exp2Num, exp2Den, vector_three_toList, vector_three_toList]
    rfl
  · rw [exp2S1Fn_of_isZero (k := s.ctx) hwf hz hden]
    rfl

/-! ### Comparisons in units and in values (R67) -/

theorem fle_iff_units {x y : Word} (hx : isNaN x = false) (hy : isNaN y = false) :
    fle x y = true ↔ units x ≤ units y := by
  rw [fle, (ordered_iff x y).2 ⟨hx, hy⟩, Bool.true_and, decide_eq_true_iff]

theorem fle_iff_value {x y : Word} (hx : isFinite x = true) (hy : isFinite y = true) :
    fle x y = true ↔ value x ≤ value y := by
  rw [fle_iff_units (not_isNaN_of_isFinite hx) (not_isNaN_of_isFinite hy), value_le_value_iff]

/-! ### The thresholds (R112)

A whole number is below -1022, or above 1023, exactly where the operand it is the floor of is below -1022, or 1024 or
more; so the sentinels can be read off the operand. -/

theorem value_1024 : value 0x4090000000000000#64 = 1024 := by decide +kernel

section Thresholds

variable {k : Ctx} {x : Word}

theorem flt_floorFn_fm1022 (k : Ctx) (hx : isNaN x = false) : flt (floorFn k x) fm1022 = flt x fm1022 := by
  obtain hfin | hinf := isFinite_or_isInf hx
  · rw [Bool.eq_iff_iff, flt_iff_value (floorFn_spec k hfin).1 (by decide), flt_iff_value hfin (by decide),
      value_floorFn k hfin, value_fm1022]
    exact_mod_cast Int.floor_lt (a := value x) (z := -1022)
  · rw [floorFn_of_isInf_or_isZero k (.inl hinf)]

theorem fgt_floorFn_f1023 (k : Ctx) (hx : isNaN x = false) :
    fgt (floorFn k x) f1023 = fle 0x4090000000000000#64 x := by
  obtain hfin | hinf := isFinite_or_isInf hx
  · rw [Bool.eq_iff_iff, fgt_eq_flt, flt_iff_value (by decide) (floorFn_spec k hfin).1, fle_iff_value (by decide) hfin,
      value_floorFn k hfin, value_f1023, value_1024]
    exact_mod_cast Int.le_floor (a := value x) (z := 1024)
  · obtain rfl | rfl := (isInf_iff_eq x).1 hinf <;> rw [floorFn_of_isInf_or_isZero k (.inl hinf)] <;> decide +kernel

theorem exp2Fn_of_underflow (hx : isNaN x = false) (h : flt x fm1022 = true) : exp2Fn k x = posZero :=
  if_pos ((flt_floorFn_fm1022 k hx).trans h)

theorem exp2Fn_of_overflow (hx : isNaN x = false) (h : fle 0x4090000000000000#64 x = true) : exp2Fn k x = posInf := by
  have hlow : flt x fm1022 = false := by
    have hthresholds : units fm1022 < units 0x4090000000000000#64 := by decide +kernel
    rw [← Bool.not_eq_true, flt_iff_units hx (by decide)]
    exact (hthresholds.trans_le ((fle_iff_units (by decide) hx).1 h)).not_gt
  simp only [exp2Fn, flt_floorFn_fm1022 k hx, hlow, fgt_floorFn_f1023 k hx, h, Bool.false_eq_true, if_false, if_true]

/-- Between the thresholds EXP2 is the product of the scaled root and the stage. -/
theorem exp2Fn_of_inRange (hx : isFinite x = true) (hlo : -1022 ≤ value x) (hhi : value x < 1024) :
    exp2Fn k x = fmul k.nan (fmul k.nan (pow2i ⌊value x⌋) sqrt2) (exp2S1Fn k (exp2Remainder k x)) := by
  have hnan := not_isNaN_of_isFinite hx
  have hlow : flt x fm1022 = false := by
    rw [← Bool.not_eq_true, flt_iff_value hx (by decide), value_fm1022]
    exact hlo.not_gt
  have hhigh : fle 0x4090000000000000#64 x = false := by
    rw [← Bool.not_eq_true, fle_iff_value (by decide) hx, value_1024]
    exact hhi.not_ge
  simp only [exp2Fn, flt_floorFn_fm1022 k hnan, hlow, fgt_floorFn_f1023 k hnan, hhigh, Bool.false_eq_true, if_false,
    f2i_of_value_eq (value_floorFn k hx)]

end Thresholds

/-! ### The scaled root (R111, R112) -/

/-- A product of at most 53 significant bits, below the overflow threshold, is not rounded. -/
theorem fmul_exact {nan x y : Word} {s n : Nat} (hx : isFinite x = true) (hy : isFinite y = true)
    (hzx : isZero x = false) (hzy : isZero y = false) (hn : n ≤ 2 ^ 53) (hlt : n * 2 ^ s < 2 ^ (53 + 2045))
    (h : |value x| * |value y| = (n * 2 ^ s : ℕ) / 2 ^ 1074) : value (fmul nan x y) = value x * value y := by
  rw [abs_value, abs_value] at h
  have hmag : mag x * mag y = n * 2 ^ s * oneUnits := by
    have hne : (oneUnits : ℚ) ≠ 0 := by exact_mod_cast oneUnits_pos.ne'
    rw [div_mul_div_comm, ← cast_oneUnits, ← div_div, div_left_inj' hne, div_eq_iff hne] at h
    exact_mod_cast h
  have hround : fmul nan x y = fround (sign x ^^ sign y) (n * 2 ^ s) 1 := by
    rw [fmul_of_isFinite hx hy hzx hzy, hmag, ← fround_mul_mul _ oneUnits_pos one_pos, one_mul]
  have hsign : signFactor (fmul nan x y) = signFactor x * signFactor y := by
    rw [hround, signFactor, signFactor, signFactor, sign_fround]
    cases sign x <;> cases sign y <;> norm_num
  rw [value_eq (fmul nan x y), value_eq x, value_eq y, mul_mul_mul_comm, h, hsign, hround, (fround_exact _ hn hlt).2]

/-- The significand of SQRT2 keeps its 53 bits under a normal power of two, so the scaled root is exact. -/
theorem value_fmul_pow2i_sqrt2 (nan : Word) {k : ℤ} (hlo : -1022 ≤ k) (hhi : k ≤ 1023) :
    value (fmul nan (pow2i k) sqrt2) = value (pow2i k) * value sqrt2 := by
  have hpow := value_pow2i hlo hhi
  have hpos : (0 : ℚ) < 2 ^ k := by positivity
  have hz : isZero (pow2i k) = false := by
    rw [← Bool.not_eq_true, ← value_eq_zero_iff, hpow]
    exact hpos.ne'
  obtain ⟨s, hs⟩ : ∃ s : ℕ, k - 52 = (s : ℤ) - 1074 := ⟨(k + 1022).toNat, by omega⟩
  have hle : s ≤ 2045 := by omega
  have hlt : 6369051672525773 * 2 ^ s < 2 ^ (53 + 2045) := calc
    6369051672525773 * 2 ^ s < 2 ^ 53 * 2 ^ s := by gcongr; norm_num
    _ ≤ 2 ^ 53 * 2 ^ 2045 := by gcongr; exact one_le_two
    _ = 2 ^ (53 + 2045) := (pow_add 2 53 2045).symm
  refine fmul_exact (isFinite_pow2i hlo hhi) (by decide) hz (by decide) (by norm_num) hlt ?_
  have hscale : (2 : ℚ) ^ k / 2 ^ 52 = 2 ^ s / 2 ^ 1074 := by
    rw [← two_zpow_sub_1074, ← hs, zpow_sub₀ two_ne_zero, zpow_ofNat]
  rw [hpow, value_sqrt2, abs_of_pos hpos, abs_of_pos (by positivity), mul_div_assoc', mul_comm, mul_div_assoc, hscale,
    Nat.cast_mul, mul_div_assoc, Nat.cast_pow, Nat.cast_ofNat, Nat.cast_ofNat]

/-! ### The shifted remainder (R112) -/

/-- A difference stays within every finite pattern whose magnitude the exact difference does not exceed. -/
theorem abs_value_fsub_le {nan x y w : Word} (hx : isFinite x = true) (hy : isFinite y = true)
    (hw : isFinite w = true) (h : |value x - value y| ≤ |value w|) :
    isFinite (fsub nan x y) = true ∧ |value (fsub nan x y)| ≤ |value w| := by
  have hmag : (units x + units (fneg y)).natAbs ≤ mag w := by
    rw [sub_eq_add_neg, ← value_fneg, value_add, abs_value, abs_div, abs_of_pos (a := (2 : ℚ) ^ 1074) (by positivity),
      div_le_div_iff_of_pos_right (by positivity), ← Int.cast_abs, Int.abs_eq_natAbs] at h
    exact_mod_cast h
  have hlow : low (fsub nan x y) ≤ low w := low_fadd_le hx ((isFinite_fneg y).trans hy) hw hmag
  refine ⟨isFinite_of_low_le hw hlow, ?_⟩
  rw [abs_value, abs_value, div_le_div_iff_of_pos_right (by positivity)]
  exact_mod_cast mag_le_mag hlow

/-- The fractional part lies in the closed [0, 1], so what a half less of it rounds to lies in EXP2_S1's domain. -/
theorem domExp2S1_exp2Remainder (k : Ctx) {x : Word} (hx : isFinite x = true) :
    domExp2S1 (exp2Remainder k x) = true := by
  obtain ⟨hfin, hlo, hhi⟩ := (domSinS3_iff _).1 (domSinS3_phase k hx)
  have hhalf : |value f0_5| = 1 / 2 := by rw [value_f0_5]; norm_num
  have hdist : |value (phase k x) - value f0_5| ≤ |value f0_5| := by
    rw [hhalf, value_f0_5, abs_le]
    constructor <;> linarith
  obtain ⟨hrfin, hr⟩ : isFinite (exp2Remainder k x) = true ∧ |value (exp2Remainder k x)| ≤ |value f0_5| :=
    abs_value_fsub_le hfin (by decide) (by decide) hdist
  rw [hhalf, abs_le] at hr
  rw [domExp2S1_iff]
  exact ⟨hrfin, by linarith, hr.2⟩

/-- Settles O54: the sentinels at the thresholds, and between them the scaled root and the stage's command. -/
theorem expTwoSplitsTheRange : Obligations.ExpTwoSplitsTheRange := by
  refine fun s a b => ⟨fun h => ?_, fun h => ?_, fun ha hlo hhi => ?_⟩
  · obtain ⟨hnan, hlow⟩ : isNaN a = false ∧ flt a fm1022 = true := by
      obtain rfl | ⟨hfin, hlt⟩ := h
      · decide +kernel
      · exact ⟨not_isNaN_of_isFinite hfin, by rwa [flt_iff_value hfin (by decide), value_fm1022]⟩
    rw [exec_exp2_inside s b hnan, exp2Fn_of_underflow hnan hlow]
  · obtain ⟨hnan, hhigh⟩ : isNaN a = false ∧ fle 0x4090000000000000#64 a = true := by
      obtain rfl | ⟨hfin, hle⟩ := h
      · decide +kernel
      · exact ⟨not_isNaN_of_isFinite hfin, by rwa [fle_iff_value (by decide) hfin, value_1024]⟩
    rw [exec_exp2_inside s b hnan, exp2Fn_of_overflow hnan hhigh]
  · have hfloor : -1022 ≤ ⌊value a⌋ := Int.le_floor.2 (by exact_mod_cast hlo)
    have hfloor' : ⌊value a⌋ ≤ 1023 := Int.lt_add_one_iff.1 (Int.floor_lt.2 (by exact_mod_cast hhi))
    have hdom := domExp2S1_exp2Remainder s.ctx ha
    refine ⟨floorFn s.ctx a, exp2S1Fn s.ctx (exp2Remainder s.ctx a), exec_floor_inside s a b (by simp [domFloor, ha]),
      value_pow2i hfloor hfloor', value_fmul_pow2i_sqrt2 _ hfloor hfloor', hdom, exec_exp2S1_inside s b hdom, ?_⟩
    rw [exec_exp2_inside s b (not_isNaN_of_isFinite ha), exp2Fn_of_inRange ha hlo hhi]
    rfl

/-! ### The change of base (R113) -/

/-- The product of two finite operands is a number or overflows to an infinity (R64). -/
theorem not_isNaN_fmul {nan x y : Word} (hx : isFinite x = true) (hy : isFinite y = true) :
    isNaN (fmul nan x y) = false := by
  by_cases hz : isZero x = true ∨ isZero y = true
  · rw [fmul_of_isZero hz hx hy]
    split <;> decide
  · simp only [not_or, Bool.not_eq_true] at hz
    obtain ⟨hzx, hzy⟩ := hz
    rw [fmul_of_isFinite hx hy hzx hzy]
    exact fround_not_nan _ _ _

/-- Settles O55: EXP is EXP2 of the product, so its sentinels are those of EXP2. -/
theorem expChangesTheBase : Obligations.ExpChangesTheBase := by
  intro s a b ha
  have hp : isNaN (fmul s.ctx.nan a log2e) = false := not_isNaN_fmul ha (by decide)
  have hexp : exec (.exp a b) s = .next (s.respond (exp2Fn s.ctx (fmul s.ctx.nan a log2e))) := exec_exp_inside s b ha
  refine ⟨hp, ⟨_, exec_exp2_inside s b hp, hexp⟩, fun h => ?_, fun h => ?_⟩
  · rw [hexp, exp2Fn_of_underflow hp h]
  · rw [hexp, exp2Fn_of_overflow hp h]

end Sys2Proof
end

section
/-!
PROOFS. Base-2 logarithm (spec R120 to R123): the rational stage and its zero at 1.0, the exponent and the mantissa of a
positive operand, the powers of two, and the change of base.
-/

namespace Sys2Proof

open Sys2Proof.Machine

/-! ### The commands inside their domains (R78) -/

section Commands

variable {a : Word} (s : State) (b : Word)

theorem exec_log2S1_inside (h : domLog2S1 a = true) : exec (.log2S1 a b) s = .next (s.respond (log2S1Fn s.ctx a)) :=
  (everyCommandCompletes (.log2S1 a b) s).1 h

theorem exec_log2_inside (h : isFinite a = true) : exec (.log2 a b) s = .next (s.respond (log2Fn s.ctx a)) :=
  (everyCommandCompletes (.log2 a b) s).1 h

theorem exec_log_inside (h : isFinite a = true) : exec (.log a b) s = .next (s.respond (logFn s.ctx a)) :=
  (everyCommandCompletes (.log a b) s).1 h

end Commands

/-! ### The rational stage (R120) -/

theorem vector_four_toList {α : Type} (v : Vector α 4) : v.toList = [v[0], v[1], v[2], v[3]] := by
  match v with
  | ⟨⟨[_, _, _, _]⟩, _⟩ => rfl

/-- LOG_ONE_EXACT makes the stage a zero of either sign at 1.0. -/
theorem isZero_log2S1Fn_f1 {k : Ctx} (h : k.cfg.logOneExact k.nan = true) : isZero (log2S1Fn k f1) = true := by
  simp only [Cfg.logOneExact, Bool.and_eq_true, Bool.not_eq_true'] at h
  obtain ⟨⟨hnum, hden⟩, hdenNaN⟩ := h
  rw [log2S1Fn, fdiv_of_isZero_left hnum hdenNaN hden]
  split <;> decide

/-- Settles O56: both polynomials of four entries written out, and the zero quotient at 1.0. -/
theorem logStageOneEvaluates : Obligations.LogStageOneEvaluates := by
  intro s a b ha
  have hstage := exec_log2S1_inside s b ha
  have hone : a = f1 → s.cfg.logOneExact s.ctx.nan = true → isZero (log2S1Fn s.ctx a) = true := by
    rintro rfl
    exact isZero_log2S1Fn_f1 (k := s.ctx)
  rw [log2S1Fn, vector_four_toList, vector_four_toList] at hstage hone
  exact ⟨hstage, hone⟩

/-! ### Exponent and mantissa (R121) -/

theorem domLog2S1_normmant (x : Word) : domLog2S1 (normmant x) = true :=
  (domLog2S1_iff _).2 ⟨isFinite_normmant x, one_le_value_normmant x, (value_normmant_lt_two x).le⟩

/-- The unbiased exponent has 11 bits, so it converts exactly (R69). -/
theorem value_i2f_unbiased (x : Word) : value (i2f (unbiased x)) = unbiased x := by
  apply value_i2f
  have := (expfield x).isLt
  rw [unbiased, abs_le]
  omega

theorem unbiased_of_isSubnormal {x : Word} (h : isSubnormal x = true) : unbiased x = -1023 := by
  rw [unbiased, ((isSubnormal_iff_fields x).1 h).1]
  rfl

theorem expfield_pos_of_normal {x : Word} (hz : isZero x = false) (hsub : isSubnormal x = false) :
    1 ≤ (expfield x).toNat := by
  rw [← Bool.not_eq_true, isZero_iff, low] at hz
  rw [← Bool.not_eq_true, isSubnormal_iff_fields] at hsub
  omega

/-- A positive normal pattern is its mantissa times the power of two of its exponent. -/
theorem value_eq_normmant_mul_zpow {x : Word} (hpos : 0 < value x) (hsub : isSubnormal x = false) :
    value x = value (normmant x) * (2 : ℚ) ^ unbiased x := by
  have hz : isZero x = false := by
    rw [← Bool.not_eq_true, ← value_eq_zero_iff]
    exact hpos.ne'
  have hscale : (2 : ℚ) ^ (((expfield x).toNat : ℤ) - 1075) = 2 ^ unbiased x / 2 ^ 52 := by
    rw [← zpow_ofNat, ← zpow_sub₀ two_ne_zero, unbiased]
    congr 1
    ring
  rw [value_of_expfield_pos (expfield_pos_of_normal hz hsub), signFactor, (value_pos_iff hz).1 hpos, hscale,
    value_normmant]
  norm_num
  ring

theorem unbiased_pow2i {k : ℤ} (hlo : -1022 ≤ k) (hhi : k ≤ 1023) : unbiased (pow2i k) = k := by
  rw [unbiased, pow2i, expfield_recomposed, toNat_pow2iField hlo hhi, add_sub_cancel_right]

theorem normmant_pow2i (k : ℤ) : normmant (pow2i k) = f1 := by
  rw [normmant, pow2i, mant_recomposed]
  decide

/-! ### LOG2 (R122) -/

section LogTwo

variable {k : Ctx} {x : Word}

theorem fle_posZero_iff (hx : isFinite x = true) : fle x posZero = true ↔ value x ≤ 0 := by
  rw [fle_iff_value hx (by decide), value_posZero]

theorem log2Fn_of_nonpos (hx : isFinite x = true) (h : value x ≤ 0) : log2Fn k x = k.cfg.nanPattern :=
  if_pos ((fle_posZero_iff hx).2 h)

theorem log2Fn_of_pos (hx : isFinite x = true) (h : 0 < value x) :
    log2Fn k x = fadd k.nan (i2f (unbiased x)) (log2S1Fn k (normmant x)) :=
  if_neg (mt (fle_posZero_iff hx).1 h.not_ge)

end LogTwo

/-- Settles O57: the sentinel, and for a positive operand the two parts and what they say of it. -/
theorem logTwoSplitsExponentAndMantissa : Obligations.LogTwoSplitsExponentAndMantissa := by
  refine fun s a b ha => ⟨fun h => ?_, fun h => ?_⟩
  · rw [exec_log2_inside s b ha, log2Fn_of_nonpos ha h, State.ctx_cfg]
  · have hdom := domLog2S1_normmant a
    refine ⟨hdom, value_normmant_lt_two a, value_i2f_unbiased a, value_eq_normmant_mul_zpow h,
      unbiased_of_isSubnormal, log2S1Fn s.ctx (normmant a), exec_log2S1_inside s b hdom, ?_⟩
    rw [exec_log2_inside s b ha, log2Fn_of_pos ha h]

/-- A zero of either sign added to a converted integer leaves it as it is, also at 0, which converts to `+0.0`. -/
theorem fadd_i2f_of_isZero {nan y : Word} {n : ℤ} (hn : |n| ≤ 2 ^ 53) (hy : isZero y = true) :
    fadd nan (i2f n) y = i2f n := by
  obtain rfl | hne := eq_or_ne n 0
  · rw [show i2f 0 = posZero by decide +kernel, fadd_of_isZero (by decide) hy, ite_self]
  · refine fadd_of_isZero_right (isFinite_i2f hn) ?_ hy
    rw [← Bool.not_eq_true, ← value_eq_zero_iff, value_i2f hn]
    exact_mod_cast hne

/-- Settles O58: the exponent of `2^k` is `k`, its mantissa is 1.0, and there the stage is a zero. -/
theorem logTwoOfPowersOfTwo : Obligations.LogTwoOfPowersOfTwo := by
  intro s b k hlo hhi hexact
  have hfin := isFinite_pow2i hlo hhi
  have hpos : 0 < value (pow2i k) := by
    rw [value_pow2i hlo hhi]
    positivity
  have hk : |k| ≤ 2 ^ 53 := by
    rw [abs_le]
    omega
  rw [exec_log2_inside s b hfin, log2Fn_of_pos hfin hpos, unbiased_pow2i hlo hhi, normmant_pow2i,
    fadd_i2f_of_isZero hk (isZero_log2S1Fn_f1 (k := s.ctx) hexact)]

/-! ### The change of base (R123) -/

theorem isNaN_nanPattern {c : Cfg} (h : c.wellFormed = true) : isNaN c.nanPattern = true := by
  rw [Cfg.wellFormed, Bool.and_eq_true] at h
  obtain ⟨-, hquiet⟩ := h
  exact ((isQuietNaN_iff _).1 hquiet).1

/-- Settles O59: LOG is the product, and for `a <= 0` a product of the sentinel, which draws a NaN. -/
theorem logChangesTheBase : Obligations.LogChangesTheBase := by
  refine fun s a b ha => ⟨_, exec_log2_inside s b ha, exec_log_inside s b ha, fun h hwf => ?_⟩
  rw [log2Fn_of_nonpos ha h, fmul_drawsNaN.of_nan_left (isNaN_nanPattern (c := s.ctx.cfg) hwf)]
  exact s.ctx_nan_isNaN

end Sys2Proof
end

section
/-!
PROOFS. The exception statements (spec 60_exceptions.md R130): a step has no other stop than a held reserved command
and a changed offer (R44, R22), and a call of an admitted command is three steps that end in one response (R18 to R20,
R47, R156).
-/

namespace Sys2Proof

open Sys2Proof.Machine

/-! ### The steps that answer (R130, R156) -/

/-- The unit's step answers exactly where no reserved command is held (R44). -/
theorem admits_iff_unitStep_answers (s : State) : s.admits = true ↔ ∃ t, unitStep s = .next t := by
  cases hu : s.unit with
  | idle => simp [State.admits, unitStep, hu]
  | done res => simp [State.admits, unitStep, hu]
  | busy op a b =>
    have hadmits : s.admits = true ↔ op.extractLsb' 4 4 = 0#4 := by
      simp only [State.admits, hu, CmdWord.admitted, beq_iff_eq, ← CmdWord.upper_op, CmdWord.make_op]
    rw [hadmits]
    constructor
    · intro hop
      obtain ⟨i, hd, -⟩ := decodeFields_admitted hop a b
      cases hr : s.pins.rst with
      | true => simp [unitStep, hu, hd, hr]
      | false => exact ⟨_, (unitStep_compute hu hd hr).trans (exec_answer i s)⟩
    · rintro ⟨t, ht⟩
      by_contra hop
      cases (unitStep_reserved hu (decodeFields_reserved hop a b)).symm.trans ht

/-- A host's move that answers has kept the offer (R22). -/
theorem hostKeeps_of_hostDrive {s t u : State} (h : hostDrive s t = .next u) : s.hostKeeps = true := by
  obtain ⟨hs, -⟩ | ⟨p, ps, hs, hb, -⟩ := hostDrive_next h
  · simp [State.hostKeeps, hs]
  · simp [State.hostKeeps, hs, hb]

/-- Settles O14: a step is the unit's step and then the host's move, and each answers under its half of `safe`. -/
theorem safeStepsAndOnlyTheyAnswer : Obligations.SafeStepsAndOnlyTheyAnswer := by
  intro s
  rw [State.safe, Bool.and_eq_true, admits_iff_unitStep_answers]
  constructor
  · rintro ⟨⟨t, hunit⟩, hkeeps⟩
    exact ⟨_, step_of_unitStep hkeeps hunit⟩
  · rintro ⟨u, hstep⟩
    obtain ⟨t, hunit, hhost⟩ := step_next_split hstep
    exact ⟨⟨t, hunit⟩, hostKeeps_of_hostDrive hhost⟩

/-! ### A call, one state and one lemma for each of its three steps (R18 to R20) -/

/-- The levels of a host that waits to take a response (R20). -/
def Machine.Pins.taking : Pins := { Pins.quiet with rspReady := true }

/-- The call's command is in the unit (R18). -/
def Machine.State.callAccepted (s : State) (c : CmdWord) : State :=
  { s.acceptWord c with pins := Pins.taking, script := [Pins.taking, Pins.quiet] }

/-- The call's response `v` is offered (R19). -/
def Machine.State.callComputed (s : State) (c : CmdWord) (v : Word) : State :=
  { (s.callAccepted c).respond v with script := [Pins.quiet] }

/-- The host has taken the call's response, and its ports are low (R20, R22). -/
def Machine.State.callDelivered (s : State) (c : CmdWord) (v : Word) : State :=
  { (s.callComputed c v).deliver v with pins := Pins.quiet, script := [] }

@[simp] theorem Machine.State.callDelivered_record (s : State) (c : CmdWord) (v : Word) :
    (s.callDelivered c v).record = s.record ++ [(c, v)] := rfl

/-- A compute step answers what its command may answer (R19, R78). -/
theorem step_compute_permitted {s : State} {op : OpCode} {a b : Word} {i : Instr} (hu : s.unit = .busy op a b)
    (hd : decodeFields op a b = .instr i) (hr : s.pins.rst = false) (hk : s.hostKeeps = true) :
    ∃ v, Permitted s.cfg i v ∧
      step s = .next { s.respond v with pins := s.script.head?.getD s.pins, script := s.script.tail } :=
  ⟨_, permitted_exec_result i s, step_of_unitStep hk ((unitStep_compute hu hd hr).trans (exec_answer i s))⟩

theorem run_three_steps {s t u v : State} (h₁ : step s = .next t) (h₂ : step t = .next u) (h₃ : step u = .next v) :
    Host.Core.run core 3 s = .next v := by
  simp only [Host.Core.run, Host.Check.core_step, h₁, h₂, h₃]

section Call

variable {s : State} {c : CmdWord} {i : Instr}

theorem step_offering (hu : s.unit = .idle) : step (s.offering c) = .next (s.callAccepted c) :=
  acceptedCommandIsAwaited (s.offering c) hu rfl rfl

theorem step_callAccepted (hd : decode c = .instr i) :
    ∃ v, Permitted s.cfg i v ∧ step (s.callAccepted c) = .next (s.callComputed c v) :=
  step_compute_permitted (s := s.callAccepted c) rfl hd rfl (hostKeeps_of_no_offer rfl)

theorem step_callComputed (v : Word) : step (s.callComputed c v) = .next (s.callDelivered c v) :=
  deliverHandsOverTheResult _ v c rfl rfl rfl rfl (hostKeeps_of_no_offer rfl)

/-- A call of an admitted command on an IDLE unit takes its three steps, and its response is a permitted one. -/
theorem call_of_idle (hu : s.unit = .idle) (hd : decode c = .instr i) :
    ∃ v, Permitted s.cfg i v ∧ call s c = .next (s.callDelivered c v) := by
  obtain ⟨v, hperm, hcompute⟩ := step_callAccepted hd
  exact ⟨v, hperm, run_three_steps (step_offering hu) hcompute (step_callComputed v)⟩

end Call

/-- Settles O16: a line that is issued is a call of its word, and the pair it binds from is the call's own. -/
theorem callDeliversExactlyOneResponse : Obligations.CallDeliversExactlyOneResponse := by
  refine ⟨fun s c i hu hd => ?_, fun env s l i hu hv hl => ?_⟩
  · obtain ⟨v, hperm, hcall⟩ := call_of_idle hu hd
    exact ⟨_, v, hcall, rfl, rfl, rfl, rfl, hperm⟩
  · obtain ⟨v, hperm, hcall⟩ := call_of_idle hu (decode_encode i)
    have hissue : s.canIssue = true := by simp [State.canIssue, (cmdReady_iff s).2 hu, hv]
    refine ⟨s.callDelivered (encode i) v, v, ?_, rfl, rfl, rfl, rfl, hperm⟩
    simp [runLine, hissue, hl, hcall]

end Sys2Proof
end

section
/-!
PROOFS. The reset statement (spec 70_reset_and_hazards.md R150, 60_exceptions.md R133 c): in each phase the asserted
reset wins over the step the phase would take, except over the refusal of a held reserved command (R44).
-/

namespace Sys2Proof

open Sys2Proof.Machine

/-- Under reset a unit that holds no reserved command drops what it holds, in all three phases (R150). -/
theorem unitStep_reset {s : State} (hr : s.pins.rst = true)
    (hadm : ∀ (op : OpCode) (a b : Word), s.unit = .busy op a b → op.extractLsb' 4 4 = 0#4) :
    unitStep s = .next s.dropCommand := by
  cases hu : s.unit with
  | idle => simp [unitStep, hu, hr]
  | busy op a b =>
    obtain ⟨i, hd, -⟩ := decodeFields_admitted (hadm op a b hu) a b
    simp [unitStep, hu, hd, hr]
  | done res => simp [unitStep, hu, hr]

/-- Settles O11: the unit's step is `dropCommand` in every phase, and the host goes on to its next levels. -/
theorem resetDropsTheCommand : Obligations.ResetDropsTheCommand := by
  intro s hr hk hadm
  exact step_of_unitStep hk (unitStep_reset hr hadm)

end Sys2Proof
end
